-- ==== Sys2Proof/Word.lean ====
section
/-! DEFINITION. The word types of the block: the byte a stream moves (R14, R53) and the 128-bit value of the
registers OPERAND and RESULT (R9). Bits are numbered from 0, the least significant bit (R10). -/

namespace Sys2Proof

/-- One stream byte, one command word, one 8-bit register (R14, R18, R59). -/
abbrev Byte := BitVec 8

/-- The contents of a 128-bit value register (R9, R18). -/
abbrev Value := BitVec 128

/-- A host register number (R18). -/
abbrev RegNum := BitVec 4

end Sys2Proof
end

