-- ==== Sys2Proof/Syntax.lean ====
section
/-! DEFINITION. The commands of the block (one constructor per row of spec/opcode_table.json, R63), the fields of a
command word (R59, R62), why a word encodes no command (R66), and the moves of the Host, the Codec and the Stream
(R14, R17, R64, R65). -/

namespace Sys2Proof

/-- The 24 commands of R63, in the order of their command words. No command has an operand in its word (R59). -/
inductive Instr where
  | encU8 | decU8 | encI8 | decI8
  | encU16 | decU16 | encI16 | decI16
  | encU32 | decU32 | encI32 | decI32
  | encU64 | decU64 | encI64 | decI64
  | encU128 | decU128 | encI128 | decI128
  | encUPtr | decUPtr | encIPtr | decIPtr
  deriving DecidableEq, Repr

/-- The functional unit a command runs, field OP (R59, R60) and hidden register OPK (R32). -/
inductive Unit2 where
  | enc
  | dec
  deriving DecidableEq, Repr

/-- Signedness, field SGN (R59) and hidden register SGN (R32). -/
inductive Signedness where
  | unsigned
  | signed
  deriving DecidableEq, Repr

/-- The width select codes 000 to 101 of field WSEL (R62). -/
inductive WidthSel where
  | s8 | s16 | s32 | s64 | s128 | sPtr
  deriving DecidableEq, Repr

/-- A width W of an integer, the values hidden register WID can hold (R6, R32): PTR_WIDTH is one of 16, 32, 64 (R7). -/
inductive Width where
  | w8 | w16 | w32 | w64 | w128
  deriving DecidableEq, Repr

/-- Why a byte encodes no command (R66). -/
inductive IllegalWord where
  /-- WSEL is 110 or 111 (words 0x18 to 0x1F). -/
  | reservedWidth
  /-- Bits 7:5 are not 000 (words 0x20 to 0xFF). -/
  | reservedBits
  deriving DecidableEq, Repr

/-- The sink's answer to SinkWrite (R14, R43). -/
inductive SinkAnswer where
  | ack
  | err
  deriving DecidableEq, Repr

/-- The source's answer to SourceRead (R14, R45). End of input is `err` (R47). -/
inductive SourceAnswer where
  | byte (b : Byte)
  | err
  deriving DecidableEq, Repr

/-- A move of the Host (R17): the host accesses WR and RD as the triples of R64, WAIT (R65), reset (R138), and
attaching a stream to a port (R142, R147; log entry 17). A command mnemonic is a write of its word to register 0. -/
inductive HostMove where
  | write (reg : RegNum) (value : Value)
  | read (reg : RegNum)
  | wait
  | reset
  | attachSink (held : List Byte) (answers : List SinkAnswer)
  | attachSource (answers : List SourceAnswer)
  deriving DecidableEq, Repr

/-- One turn of the total order of steps (R52): a host move, a chance for the codec to step, or a transfer of another
agent on one of the streams (R145). -/
inductive Turn where
  | host (m : HostMove)
  | codec
  | outsideWrite (b : Byte)
  | outsideRead
  deriving DecidableEq, Repr

end Sys2Proof
end

