-- ==== Sys2Proof/WellFormed.lean ====
section
/-! DEFINITION. Which words are commands (R66) and which host accesses are whole-register accesses (R18, R36). An
`Instr` has no operand, so every term of it is well-formed. -/

namespace Sys2Proof

/-- `Legal(c)` of R66: bits 7:5 are 000 and WSEL is one of 000 to 101. -/
def legalWord (c : Byte) : Bool :=
  c.extractLsb' 5 3 == 0 && (c.extractLsb' 2 3).toNat ≤ 5

/-- The width of the register a number names (R18); an unassigned number (R31) has none. -/
def regWidth (r : RegNum) : Option Nat :=
  if r.toNat ≤ 3 then some 8 else if r.toNat ≤ 5 then some 128 else none

/-- A write gives a value of the register's own width: no partial or wider access exists (R36, R51). -/
def HostMove.wf : HostMove → Bool
  | .write r v => match regWidth r with
    | some w => v.toNat < 2 ^ w
    | none => true
  | .read _ => true
  | .wait => true
  | .reset => true
  | .attachSink _ _ => true
  | .attachSource _ => true

/-- Every command is well-formed: its word is fixed and has no operand (R59). -/
def Instr.wf (_ : Instr) : Bool := true

end Sys2Proof
end

