-- ==== Sys2Proof/Decode.lean ====
section
/-! DEFINITION. Command words: the decoder reads the fields of R59 and R62, the encoder is the map of R63. -/

namespace Sys2Proof

/-- Field OP, bit 0 (R59). -/
def opField (c : Byte) : Unit2 := if c.getLsbD 0 then .dec else .enc

/-- Field SGN, bit 1 (R59). -/
def sgnField (c : Byte) : Signedness := if c.getLsbD 1 then .signed else .unsigned

/-- Field WSEL, bits 4:2 (R59, R62); 110 and 111 are reserved. -/
def wselField (c : Byte) : Option WidthSel :=
  match (c.extractLsb' 2 3).toNat with
  | 0 => some .s8
  | 1 => some .s16
  | 2 => some .s32
  | 3 => some .s64
  | 4 => some .s128
  | 5 => some .sPtr
  | _ => none

/-- The command of a unit, a signedness and a width select (R60, R61). -/
def commandOf : Unit2 → Signedness → WidthSel → Instr
  | .enc, .unsigned, .s8 => .encU8
  | .enc, .unsigned, .s16 => .encU16
  | .enc, .unsigned, .s32 => .encU32
  | .enc, .unsigned, .s64 => .encU64
  | .enc, .unsigned, .s128 => .encU128
  | .enc, .unsigned, .sPtr => .encUPtr
  | .enc, .signed, .s8 => .encI8
  | .enc, .signed, .s16 => .encI16
  | .enc, .signed, .s32 => .encI32
  | .enc, .signed, .s64 => .encI64
  | .enc, .signed, .s128 => .encI128
  | .enc, .signed, .sPtr => .encIPtr
  | .dec, .unsigned, .s8 => .decU8
  | .dec, .unsigned, .s16 => .decU16
  | .dec, .unsigned, .s32 => .decU32
  | .dec, .unsigned, .s64 => .decU64
  | .dec, .unsigned, .s128 => .decU128
  | .dec, .unsigned, .sPtr => .decUPtr
  | .dec, .signed, .s8 => .decI8
  | .dec, .signed, .s16 => .decI16
  | .dec, .signed, .s32 => .decI32
  | .dec, .signed, .s64 => .decI64
  | .dec, .signed, .s128 => .decI128
  | .dec, .signed, .sPtr => .decIPtr

/-- The decoder of command words, total on bytes: a reserved word is rejected by name (R66). -/
def decode (c : Byte) : Except IllegalWord Instr :=
  if c.extractLsb' 5 3 = 0 then
    match wselField c with
    | some w => .ok (commandOf (opField c) (sgnField c) w)
    | none => .error .reservedWidth
  else .error .reservedBits

/-- The encoder: the command map of R63. -/
def encode : Instr → Byte
  | .encU8 => 0x00
  | .decU8 => 0x01
  | .encI8 => 0x02
  | .decI8 => 0x03
  | .encU16 => 0x04
  | .decU16 => 0x05
  | .encI16 => 0x06
  | .decI16 => 0x07
  | .encU32 => 0x08
  | .decU32 => 0x09
  | .encI32 => 0x0A
  | .decI32 => 0x0B
  | .encU64 => 0x0C
  | .decU64 => 0x0D
  | .encI64 => 0x0E
  | .decI64 => 0x0F
  | .encU128 => 0x10
  | .decU128 => 0x11
  | .encI128 => 0x12
  | .decI128 => 0x13
  | .encUPtr => 0x14
  | .decUPtr => 0x15
  | .encIPtr => 0x16
  | .decIPtr => 0x17

/-- What the decoder reads from a table word: a command is exactly one 8-bit word (R59, R63), so a word with a bit at
position 8 or above is no command. -/
def decodeTableWord (nbits w : Nat) : Option Instr :=
  if w % 2 ^ nbits < 256 then
    match decode (BitVec.ofNat 8 (w % 2 ^ nbits)) with
    | .ok i => some i
    | .error _ => none
  else none

end Sys2Proof
end

