-- ==== Sys2Proof/Config.lean ====
section
/-! DEFINITION. What is fixed for one block (PTR_WIDTH, R7 and R141) and the free values: what a sink holds
where R57 and U1 leave it open, and the patterns R37 and R38 leave unspecified. They are constants with no body:
nothing can be proved of their value. That every block draws from the same constants, each by its own count, is a DESIGN
CHOICE (log entry 27). -/

namespace Sys2Proof

/-- The legal values 16, 32 and 64 of PTR_WIDTH (R7). PRESUMED: the legal set is general knowledge in the spec itself
(93_implementation_defined.md G1), log entry 4. -/
inductive PtrWidth where
  | p16
  | p32
  | p64
  deriving DecidableEq, Repr, Inhabited

/-- The pointer width of the block after reset: left OPEN by R7 (log entry 4). Claims over all states hold for each
of its legal values, since `State.ptrWidth` is a field. -/
opaque Config.ptrWidth : PtrWidth

/-- The n-th draw of a 128-bit pattern of a register that holds no value: unspecified (R37, R38; log entry 18). -/
opaque Config.unspecified : Nat → Value

/-- The n-th draw of what a sink holds after it answered ERR, or after a reset cut an ENC command short: unspecified
(R57, R147, U1; log entries 8, 10). -/
opaque Config.sinkContents : Nat → List Byte

end Sys2Proof
end

