-- ==== Sys2Proof/Machine/State.lean ====
section
/-! DEFINITION. The state of the block and of its environment, its reset value, and the reasons a step can stop. -/

namespace Sys2Proof.Machine

/-- STATUS.STATE (R22, R23); the code 11 is never produced, so it is no value here. -/
inductive CmdState where
  | idle
  | busy
  | done
  deriving DecidableEq, Repr

/-- STATUS.ERR (R22, R24, R125). -/
inductive ErrCode where
  | ok
  | ioError
  | overflow
  | illegalCmd
  deriving DecidableEq, Repr

/-- The stored fields of STATUS (R22); bits 7:5 read as 000 and have no storage (R26). -/
structure Status where
  state : CmdState
  err : ErrCode
  rvalid : Bool
  deriving DecidableEq, Repr

/-- The faults a model records (93_implementation_defined.md: "`fault`: a recorded fault; the state is never final").
The block goes on with an unspecified value; the record says that the run used one (log entry 18). -/
inductive RecordedFault where
  /-- An ENC command was accepted before the first write of OPERAND after reset (R38, U4). -/
  | encodedUnwritten
  /-- The host read OPERAND before its first write after reset (R38, U4). -/
  | readUnwritten
  /-- The host read RESULT while RVALID = 0 (R37, U3). -/
  | readNoResult
  deriving DecidableEq, Repr

/-- The whole machine. The registers are those of R18 and R32, the streams those of R42, the recorded faults those of
R37 and R38; `schedule`, `readData` and `draws` are the model's own (log entries 2, 8, 11). -/
@[ext]
structure State where
  /-- STATUS (R22). -/
  status : Status
  /-- COUNT: stream bytes the running or last command has transferred (R27). -/
  count : BitVec 8
  /-- LASTB: the last byte transferred successfully (R28). -/
  lastb : Byte
  /-- OPERAND (R29). -/
  operand : Value
  /-- Whether the host has written OPERAND since reset (R38). -/
  operandWritten : Bool
  /-- RESULT (R30); it holds the result only while RVALID is 1 (R37). -/
  result : Value
  /-- Hidden OPK: the unit of the accepted command (R32). -/
  opk : Unit2
  /-- Hidden SGN: its signedness (R32). -/
  sgn : Signedness
  /-- Hidden WID: its width (R32). -/
  wid : Width
  /-- Hidden ACC, of which the low W bits are used (R32). -/
  acc : Value
  /-- Hidden SHIFT (R32). -/
  shift : BitVec 8
  /-- PTR_WIDTH, fixed before use and changed by no step (R7, R141). -/
  ptrWidth : PtrWidth
  /-- What the attached sink holds, oldest byte first (R42, R44). -/
  sink : List Byte
  /-- The bytes the attached sink has acknowledged to the block, oldest first: handed over for good, whatever the sink
  keeps of them (R44, R57, R139). -/
  handed : List Byte
  /-- The sink's answers to come, next first; none left: it never answers (R43, R150). -/
  sinkAnswers : List SinkAnswer
  /-- The source's answers to come, next first; none left: it never answers (R45, R150). -/
  sourceAnswers : List SourceAnswer
  /-- The turns to come, next first; none left: the codec moves if it can (R52, R151; log entry 2). -/
  schedule : List Turn
  /-- The value the last host read returned (log entry 11). -/
  readData : Value
  /-- The number of free values drawn so far (log entry 8). -/
  draws : Nat
  /-- The faults recorded so far, oldest first; no step takes one out, for the state is never final again (R37, R38,
  93_implementation_defined.md). -/
  faults : List RecordedFault
  deriving DecidableEq, Repr

/-- Why the machine stops. There is no reason: no rule of the spec stops the block, whose errors are completions it goes
on from (R121 to R124, R129). What R37 and R38 make a model record as a fault is a `RecordedFault`. -/
inductive Fault where
  deriving DecidableEq, Repr

/-- Why the model gives a run no meaning. Each is SAFE. -/
inductive Refusal where
  /-- Raised by an arm of `exec` that has no meaning yet; no arm of this model does. Safe. -/
  | notModelled (mnemonic : String)
  /-- Raised by another agent's transfer on the stream of a running command (R145: "A model refuses a run in which two
  agents transfer on one stream during one command"). Safe. -/
  | streamShared
  /-- Raised by attaching another stream to the port of a running command, to which the spec gives no meaning (R145;
  log entry 17). Safe. -/
  | streamReplaced
  deriving DecidableEq, Repr

/-- What a step or a meaning answers. -/
abbrev Answer := Host.Outcome State Fault Refusal

/-- The machine right after reset (R39, R138). OPERAND, RESULT and the hidden registers have no reset value in the
spec: DESIGN CHOICE 0 (log entries 5, 6, 7). No stream is attached yet (R142; log entry 24) and no turn is scheduled. -/
def State.reset : State where
  status := { state := .idle, err := .ok, rvalid := false }
  count := 0
  lastb := 0
  operand := 0
  operandWritten := false
  result := 0
  opk := .enc
  sgn := .unsigned
  wid := .w8
  acc := 0
  shift := 0
  ptrWidth := Config.ptrWidth
  sink := []
  handed := []
  sinkAnswers := []
  sourceAnswers := []
  schedule := []
  readData := 0
  draws := 0
  faults := []

end Sys2Proof.Machine
end

