-- ==== Sys2Proof/Machine/Flags.lean ====
section
/-! DEFINITION. The block's only flags are the fields of STATUS (R22, R35) and the tests that decide them: the stop test
of the encoder (R75) and the overflow tests of the decoder (R96, R99, R101). -/

namespace Sys2Proof.Machine

/-- The code of STATE in STATUS[1:0] (R22). -/
def CmdState.code : CmdState → BitVec 2
  | .idle => 0b00
  | .busy => 0b01
  | .done => 0b10

/-- The code of ERR in STATUS[3:2] (R22, R125). -/
def ErrCode.code : ErrCode → BitVec 2
  | .ok => 0b00
  | .ioError => 0b01
  | .overflow => 0b10
  | .illegalCmd => 0b11

/-- The byte a host read of STATUS returns: `{000, RVALID, ERR, STATE}` (R22). -/
def Status.word (st : Status) : BitVec 8 :=
  0#3 ++ BitVec.ofBool st.rvalid ++ st.err.code ++ st.state.code

/-- A command runs (R20, R23). -/
def State.busy (s : State) : Bool := s.status.state == .busy

/-- The stop test EncFinal_U and EncFinal_S of a W-bit working value (R75; 90_conflicts.md C1: the range, not abs). -/
def encFinal {W : Nat} (sgn : Signedness) (a : BitVec W) : Bool :=
  match sgn with
  | .unsigned => a.toNat ≤ 0x7F
  | .signed => -64 ≤ a.toInt && a.toInt ≤ 63

/-- The length guard: the next group would start past the width (R96). -/
def pastWidth (W shift : Nat) : Bool := W < shift

/-- The unsigned per-group check: payload p at the given shift sets a bit at position W or above (R99). -/
def exceedsUnsigned (W shift : Nat) (p : BitVec 7) : Bool := 2 ^ W ≤ p.toNat * 2 ^ shift

/-- The signed excess-bits check on the final payload p, which lands k of its bits inside the width: the excess bits
E = p >>u k and the sign bit p[k-1] agree (R101). -/
def excessAgrees (k : Nat) (p : BitVec 7) : Bool :=
  let e := p.toNat >>> k
  let sb := p.getLsbD (k - 1)
  (!sb && e == 0) || (sb && e == 2 ^ (7 - k) - 1)

/-- The signed overflow test of Finalize: with `sh` the offset after the final group, a straddling final group whose
excess bits do not agree with the sign bit overflows; a group inside the width never does (R101). -/
def exceedsSigned (W sh : Nat) (p : BitVec 7) : Bool :=
  pastWidth W sh && !excessAgrees (W - (sh - 7)) p

end Sys2Proof.Machine
end

