-- ==== Sys2Proof/Machine/Operands.lean ====
section
/-! DEFINITION. Operand and result forms: the widths (R6, R7, R8, R62), the group byte (R67), the W-bit patterns taken
from OPERAND (R71) and ACC (R32), their shifts (R77, R78), the payload merge (R98), sign extension (R102) and the
widening into RESULT (R30). A W-bit pattern is a `BitVec W`, `uval_W` is its `toNat`, `sval_W` its `toInt` (R11, R12). -/

namespace Sys2Proof.Machine

/-- The number of bits W of a width (R6). -/
def widthBits : Width → Nat
  | .w8 => 8
  | .w16 => 16
  | .w32 => 32
  | .w64 => 64
  | .w128 => 128

/-- The width that PTR_WIDTH names (R7). -/
def ptrWidthOf : PtrWidth → Width
  | .p16 => .w16
  | .p32 => .w32
  | .p64 => .w64

/-- `WidthOf(WSEL)` (R62), given the block's PTR_WIDTH. -/
def widthOf (p : PtrWidth) : WidthSel → Width
  | .s8 => .w8
  | .s16 => .w16
  | .s32 => .w32
  | .s64 => .w64
  | .s128 => .w128
  | .sPtr => ptrWidthOf p

/-- `MAXG(W) = ceil(W / 7)`: the largest number of groups (R8). -/
def maxGroups (w : Width) : Nat := (widthBits w + 6) / 7

/-- `k(W)`: the payload bits of the straddling group that lie inside the width (00_scope.md, Glossary; R62). -/
def insideBits (w : Width) : Nat := widthBits w - 7 * (maxGroups w - 1)

/-- The continuation flag of a group byte, bit 7 (R50, R67). -/
def continues (b : Byte) : Bool := b.getLsbD 7

/-- The payload of a group byte, bits 6:0 (R50, R67). -/
def payload (b : Byte) : BitVec 7 := b.extractLsb' 0 7

/-- The group byte `{C, p}` (R67, R76). -/
def groupByte (cont : Bool) (p : BitVec 7) : Byte := BitVec.ofBool cont ++ p

/-- The W-bit pattern an ENC command takes from OPERAND; bits 127:W are ignored (R29, R71). -/
def operandPattern (W : Nat) (operand : Value) : BitVec W := operand.setWidth W

/-- The W bits of ACC that are used (R32). -/
def accPattern (W : Nat) (acc : Value) : BitVec W := acc.setWidth W

/-- ACC holding a W-bit pattern: bits 127:W are 0 (R32). -/
def accOf {W : Nat} (v : BitVec W) : Value := v.setWidth 128

/-- The low 7 bits `a[6:0]` of a working value (R76). -/
def lowGroup {W : Nat} (a : BitVec W) : BitVec 7 := a.setWidth 7

/-- The working value after a non-final group: `a >>u 7` (R77) or `a >>s 7` (R78). -/
def shiftGroup {W : Nat} (sgn : Signedness) (a : BitVec W) : BitVec W :=
  match sgn with
  | .unsigned => a >>> 7
  | .signed => a.sshiftRight 7

/-- `ACC | trunc_W(p * 2^s)` (R98). -/
def mergePayload {W : Nat} (acc : BitVec W) (p : BitVec 7) (shift : Nat) : BitVec W :=
  acc ||| BitVec.ofNat W (p.toNat * 2 ^ shift)

/-- `(ACC << m) >>s m` with `m = W - min(sh, W)` (R102). -/
def signExtendFrom {W : Nat} (acc : BitVec W) (sh : Nat) : BitVec W :=
  (acc <<< (W - min sh W)).sshiftRight (W - min sh W)

/-- The W-bit result pattern of Finalize (R102, R103). -/
def resultPattern {W : Nat} (sgn : Signedness) (acc : BitVec W) (sh : Nat) : BitVec W :=
  match sgn with
  | .unsigned => acc
  | .signed => signExtendFrom acc sh

/-- The widening of a result pattern to RESULT: `zext_128` or `sext_128` (R30). -/
def widen {W : Nat} (sgn : Signedness) (v : BitVec W) : Value :=
  match sgn with
  | .unsigned => v.setWidth 128
  | .signed => v.signExtend 128

end Sys2Proof.Machine
end

