-- ==== Sys2Proof/Machine/Ops.lean ====
section
/-! DEFINITION. The shared operations: completions (R121 to R124; the block's whole exception mechanism, R129), command
acceptance (R20), the stream primitives (R43, R45), the host's register accesses (R18 to R38), reset (R138), and the
moves of the environment on the streams (R142, R145, R147). There is no return operation: a DONE status is cleared
only by the next accepted command or by reset (R130). -/

namespace Sys2Proof.Machine

/-! ### Registers that hold no value -/

/-- The pattern that using a register without a value gives: a free value (R37, R38). -/
def unspecifiedValue (s : State) : Value := Config.unspecified s.draws

/-- A use of a register without a value: the fault is recorded and a free value is drawn (R37, R38, U3, U4; log
entry 18). -/
def recordFault (f : RecordedFault) (s : State) : State :=
  { s with faults := s.faults ++ [f], draws := s.draws + 1 }

/-! ### Completions -/

/-- Every way a command ends: STATE becomes DONE, ERR the outcome, RVALID 0 (R122, R123, and R121 for ENC). -/
def complete (e : ErrCode) (s : State) : State :=
  { s with status := { state := .done, err := e, rvalid := false } }

/-- `finish OK` of an ENC command (R121). -/
def finishEnc (s : State) : State := complete .ok s

/-- `finish OK` of a DEC command with its result already widened to 128 bits: RESULT and RVALID are written (R121). -/
def finishDec (v : Value) (s : State) : State :=
  { s with status := { state := .done, err := .ok, rvalid := true }, result := v }

/-- `raise IoError` (R122). -/
def raiseIoError (s : State) : State := complete .ioError s

/-- `raise Overflow` (R123). -/
def raiseOverflow (s : State) : State := complete .overflow s

/-- `raise IllegalCmd`: part of the acceptance step, so COUNT and LASTB are 0 (R20, R124). -/
def raiseIllegalCmd (s : State) : State :=
  complete .illegalCmd { s with count := 0, lastb := 0 }

/-! ### Command acceptance -/

/-- The initial ACC of a command: OPERAND[W-1:0] for ENC, 0 for DEC (R20). -/
def initialAcc (u : Unit2) (w : Width) (operand : Value) : Value :=
  match u with
  | .enc => accOf (operandPattern (widthBits w) operand)
  | .dec => 0

/-- The register writes of the acceptance of a legal command, `operand` being what OPERAND gives (R20). -/
def latchCommand (u : Unit2) (g : Signedness) (w : Width) (operand : Value) (s : State) : State :=
  { s with
    status := { state := .busy, err := .ok, rvalid := false }
    count := 0
    lastb := 0
    opk := u
    sgn := g
    wid := w
    acc := initialAcc u w operand
    shift := 0 }

/-- The command takes its operand from OPERAND before OPERAND has been written (R38): only ENC reads it (R40). -/
def lacksOperand (u : Unit2) (s : State) : Bool := u == .enc && !s.operandWritten

/-- The acceptance step of a legal command (R20): dropped while BUSY (R146); an ENC before the first write of OPERAND
encodes an unspecified pattern, and the fault is recorded (R38). -/
def acceptCommand (u : Unit2) (g : Signedness) (w : Width) (s : State) : Answer :=
  if s.busy then .next s
  else if lacksOperand u s then
    .next (recordFault .encodedUnwritten (latchCommand u g w (unspecifiedValue s) s))
  else .next (latchCommand u g w s.operand s)

/-- A command request with a word that encodes no command: dropped while BUSY, else ILLEGAL_CMD (R20, R66, R124). -/
def rejectWord (s : State) : State :=
  if s.busy then s else raiseIllegalCmd s

/-! ### The stream primitives -/

/-- `SinkWrite(b)`: the sink's answer and the state after it, none if the sink does not answer. ACK appends b and hands it
over for good (R43, R44); after ERR what the sink holds is a free value (R57, U1; log entry 8). -/
def sinkWrite (b : Byte) (s : State) : Option (SinkAnswer × State) :=
  match s.sinkAnswers with
  | [] => none
  | .ack :: rest => some (.ack, { s with sinkAnswers := rest, sink := s.sink ++ [b], handed := s.handed ++ [b] })
  | .err :: rest =>
    some (.err, { s with
      sinkAnswers := rest, sink := Config.sinkContents s.draws, draws := s.draws + 1 })

/-- `SourceRead()`: the source's answer and the state after it, none if the source does not answer (R45). -/
def sourceRead (s : State) : Option (SourceAnswer × State) :=
  match s.sourceAnswers with
  | [] => none
  | a :: rest => some (a, { s with sourceAnswers := rest })

/-- COUNT and LASTB after a successful transfer of b (R27, R28). -/
def countByte (b : Byte) (s : State) : State :=
  { s with count := s.count + 1, lastb := b }

/-! ### Host accesses -/

/-- The value a host read of a register returns (R18, R19, R22, R31), or the fault to record for a register that holds
none (R37, R38). -/
def readRegister (r : RegNum) (s : State) : Except RecordedFault Value :=
  match r.toNat with
  | 0 => .ok 0
  | 1 => .ok (s.status.word.setWidth 128)
  | 2 => .ok (s.count.setWidth 128)
  | 3 => .ok (s.lastb.setWidth 128)
  | 4 => if s.operandWritten then .ok s.operand else .error .readUnwritten
  | 5 => if s.status.rvalid then .ok s.result else .error .readNoResult
  | _ => .ok 0

/-- A host read: the value goes to the host and nothing else changes (R54); from a register that holds no value an
unspecified one, and the fault is recorded (R37, R38). -/
def hostRead (r : RegNum) (s : State) : State :=
  match readRegister r s with
  | .ok v => { s with readData := v }
  | .error f => recordFault f { s with readData := unspecifiedValue s }

/-- A host write to OPERAND (R29). -/
def writeOperand (v : Value) (s : State) : State :=
  { s with operand := v, operandWritten := true }

/-- A host write to a register other than CMD: OPERAND takes the value, every other write is ignored (R26, R29, R31). -/
def hostWriteData (r : RegNum) (v : Value) (s : State) : State :=
  if r = 4 then writeOperand v s else s

/-- The command word of a host write to CMD: `c[7:0]` (R20; log entry 12). -/
def commandWord (v : Value) : Byte := v.setWidth 8

/-- WAIT: one read of STATUS; while STATE is BUSY the codec gets a turn and WAIT goes on (R65; log entry 13). -/
def hostWait (s : State) : State :=
  { s with
    readData := s.status.word.setWidth 128
    schedule := if s.busy then .codec :: .host .wait :: s.schedule else s.schedule }

/-- The running command uses the sink (ENC) or the source (DEC) (R42). -/
def State.uses (s : State) (u : Unit2) : Bool := s.busy && s.opk == u

/-- Every register of the block at its reset value (R39). -/
def resetRegisters (s : State) : State :=
  { s with
    status := State.reset.status
    count := State.reset.count
    lastb := State.reset.lastb
    operand := State.reset.operand
    operandWritten := State.reset.operandWritten
    result := State.reset.result
    opk := State.reset.opk
    sgn := State.reset.sgn
    wid := State.reset.wid
    acc := State.reset.acc
    shift := State.reset.shift }

/-- What the sink holds after a reset: a free value if the reset cuts an ENC command short (R57, R147, U1, U14; log
entry 10), else what it held. The bytes it has acknowledged stay handed over (R139). -/
def disturbSink (s : State) : State :=
  { s with
    sink := if s.uses .enc then Config.sinkContents s.draws else s.sink
    draws := if s.uses .enc then s.draws + 1 else s.draws }

/-- Reset: every register of the block takes its reset value; PTR_WIDTH, the source and the environment's moves to come
are not the block's and stay (R39, R138, R139, R141; log entry 23). -/
def resetBlock (s : State) : State := resetRegisters (disturbSink s)

/-! ### Moves of the environment on the streams -/

/-- Attaching another sink, with what it holds and the answers it will give; the block has handed it nothing yet (R142,
R147; log entry 17). -/
def attachSink (held : List Byte) (answers : List SinkAnswer) (s : State) : Answer :=
  if s.uses .enc then .refused .streamReplaced
  else .next { s with sink := held, handed := [], sinkAnswers := answers }

/-- Attaching another source, with the answers it will give (R142, R147; log entry 17). -/
def attachSource (answers : List SourceAnswer) (s : State) : Answer :=
  if s.uses .dec then .refused .streamReplaced
  else .next { s with sourceAnswers := answers }

/-- Another writer appends b to the sink: refused during an ENC command (R145). -/
def outsideWrite (b : Byte) (s : State) : Answer :=
  if s.uses .enc then .refused .streamShared
  else .next { s with sink := s.sink ++ [b] }

/-- Another reader takes the source's next answer: refused during a DEC command (R145). -/
def outsideRead (s : State) : Answer :=
  if s.uses .dec then .refused .streamShared
  else .next { s with sourceAnswers := s.sourceAnswers.tail }

end Sys2Proof.Machine
end

