-- ==== Sys2Proof/Machine/Encoder.lean ====
section
/-! DEFINITION. The encoder: one codec step of a BUSY ENC command (R76). -/

namespace Sys2Proof.Machine

/-- The working value `reg[ACC][W-1:0]` of the running command (R76). -/
def State.work (s : State) : BitVec (widthBits s.wid) := accPattern (widthBits s.wid) s.acc

/-- Whether this step emits the final group (R75, R76). -/
def encIsFinal (s : State) : Bool := encFinal s.sgn s.work

/-- The byte an ENC step offers: `{0, a[6:0]}` if final, else `{1, a[6:0]}` (R76). -/
def encByte (s : State) : Byte := groupByte (!encIsFinal s) (lowGroup s.work)

/-- ACC takes the remaining value (R76). -/
def storeWork (next : Value) (s : State) : State := { s with acc := next }

/-- What an ENC step does once the sink has acknowledged b (R76, R121). -/
def encAdvance (s : State) (b : Byte) (final : Bool) (next : Value) : State :=
  if final then finishEnc (countByte b s) else storeWork next (countByte b s)

/-- One codec step of a BUSY ENC command (R76); none if the sink does not answer (R150). -/
def encStep (s : State) : Option State :=
  match sinkWrite (encByte s) s with
  | none => none
  | some (.err, t) => some (raiseIoError t)
  | some (.ack, t) =>
    some (encAdvance t (encByte s) (encIsFinal s) (accOf (shiftGroup s.sgn s.work)))

end Sys2Proof.Machine
end

