-- ==== Sys2Proof/Machine/Decoder.lean ====
section
/-! DEFINITION. The decoder: one codec step of a BUSY DEC command (R95), with its checks in the order of R120. -/

namespace Sys2Proof.Machine

/-- `Finalize(p)`: the signed excess check (R101), the sign extension (R102) and the result (R103). -/
def finalize (p : BitVec 7) (s : State) : State :=
  if s.sgn = .signed ∧ exceedsSigned (widthBits s.wid) s.shift.toNat p then raiseOverflow s
  else finishDec (widen s.sgn (resultPattern s.sgn s.work s.shift.toNat)) s

/-- The payload merge: ACC and SHIFT take the group (R98). -/
def mergeGroup (p : BitVec 7) (s : State) : State :=
  { s with acc := accOf (mergePayload s.work p s.shift.toNat), shift := s.shift + 7 }

/-- What a DEC step does with the byte b it has read (R95, R99, R100). -/
def takeByte (b : Byte) (s : State) : State :=
  if s.sgn = .unsigned ∧ exceedsUnsigned (widthBits s.wid) s.shift.toNat (payload b) then
    raiseOverflow (countByte b s)
  else if continues b then mergeGroup (payload b) (countByte b s)
  else finalize (payload b) (mergeGroup (payload b) (countByte b s))

/-- One codec step of a BUSY DEC command (R95): the length guard, which reads nothing (R96); else one SourceRead, none if
the source does not answer (R150), with its failure (R97). -/
def decStep (s : State) : Option State :=
  if pastWidth (widthBits s.wid) s.shift.toNat then some (raiseOverflow s)
  else match sourceRead s with
    | none => none
    | some (.err, t) => some (raiseIoError t)
    | some (.byte b, t) => some (takeByte b t)

/-- One codec step, none if the codec has no enabled step: no command runs (R17, R137), or the stream it waits for does
not answer (R150). -/
def codecStep (s : State) : Option State :=
  if s.busy then
    match s.opk with
    | .enc => encStep s
    | .dec => decStep s
  else none

/-- The codec's turn: a codec step if one is enabled, else nothing happens (log entry 2). -/
def codecTurn (s : State) : State := (codecStep s).getD s

end Sys2Proof.Machine
end

