-- ==== Sys2Proof/Machine/DecFamily.lean ====
section
/-! DEFINITION. The DEC family (41_decode.md): a meaning for each command. A command's own step is its acceptance (R16, R20);
the steps that read its groups are the codec's (`decStep`, R95), which `step` runs while STATE is BUSY. -/

namespace Sys2Proof.Machine

/-- DEC.U8: decode an unsigned 8-bit integer (R108). -/
def execDecU8 (s : State) : Answer := acceptCommand .dec .unsigned .w8 s

/-- DEC.U16: decode an unsigned 16-bit integer (R109). -/
def execDecU16 (s : State) : Answer := acceptCommand .dec .unsigned .w16 s

/-- DEC.U32: decode an unsigned 32-bit integer (R110). -/
def execDecU32 (s : State) : Answer := acceptCommand .dec .unsigned .w32 s

/-- DEC.U64: decode an unsigned 64-bit integer (R111). -/
def execDecU64 (s : State) : Answer := acceptCommand .dec .unsigned .w64 s

/-- DEC.U128: decode an unsigned 128-bit integer (R112). -/
def execDecU128 (s : State) : Answer := acceptCommand .dec .unsigned .w128 s

/-- DEC.UPTR: decode an unsigned pointer-width integer (R113). -/
def execDecUPtr (s : State) : Answer := acceptCommand .dec .unsigned (ptrWidthOf s.ptrWidth) s

/-- DEC.I8: decode a signed 8-bit integer (R114). -/
def execDecI8 (s : State) : Answer := acceptCommand .dec .signed .w8 s

/-- DEC.I16: decode a signed 16-bit integer (R115). -/
def execDecI16 (s : State) : Answer := acceptCommand .dec .signed .w16 s

/-- DEC.I32: decode a signed 32-bit integer (R116). -/
def execDecI32 (s : State) : Answer := acceptCommand .dec .signed .w32 s

/-- DEC.I64: decode a signed 64-bit integer (R117). -/
def execDecI64 (s : State) : Answer := acceptCommand .dec .signed .w64 s

/-- DEC.I128: decode a signed 128-bit integer (R118). -/
def execDecI128 (s : State) : Answer := acceptCommand .dec .signed .w128 s

/-- DEC.IPTR: decode a signed pointer-width integer (R119). -/
def execDecIPtr (s : State) : Answer := acceptCommand .dec .signed (ptrWidthOf s.ptrWidth) s

end Sys2Proof.Machine
end

