-- ==== Sys2Proof/Machine/EncFamily.lean ====
section
/-! DEFINITION. The ENC family (40_encode.md): a meaning for each command. A command's own step is its acceptance (R16, R20);
the steps that emit its groups are the codec's (`encStep`, R76), which `step` runs while STATE is BUSY (R74). -/

namespace Sys2Proof.Machine

/-- ENC.U8: encode an unsigned 8-bit integer (R83). -/
def execEncU8 (s : State) : Answer := acceptCommand .enc .unsigned .w8 s

/-- ENC.U16: encode an unsigned 16-bit integer (R84). -/
def execEncU16 (s : State) : Answer := acceptCommand .enc .unsigned .w16 s

/-- ENC.U32: encode an unsigned 32-bit integer (R85). -/
def execEncU32 (s : State) : Answer := acceptCommand .enc .unsigned .w32 s

/-- ENC.U64: encode an unsigned 64-bit integer (R86). -/
def execEncU64 (s : State) : Answer := acceptCommand .enc .unsigned .w64 s

/-- ENC.U128: encode an unsigned 128-bit integer (R87). -/
def execEncU128 (s : State) : Answer := acceptCommand .enc .unsigned .w128 s

/-- ENC.UPTR: encode an unsigned pointer-width integer (R88). -/
def execEncUPtr (s : State) : Answer := acceptCommand .enc .unsigned (ptrWidthOf s.ptrWidth) s

/-- ENC.I8: encode a signed 8-bit integer (R89). -/
def execEncI8 (s : State) : Answer := acceptCommand .enc .signed .w8 s

/-- ENC.I16: encode a signed 16-bit integer (R90). -/
def execEncI16 (s : State) : Answer := acceptCommand .enc .signed .w16 s

/-- ENC.I32: encode a signed 32-bit integer (R91). -/
def execEncI32 (s : State) : Answer := acceptCommand .enc .signed .w32 s

/-- ENC.I64: encode a signed 64-bit integer (R92). -/
def execEncI64 (s : State) : Answer := acceptCommand .enc .signed .w64 s

/-- ENC.I128: encode a signed 128-bit integer (R93). -/
def execEncI128 (s : State) : Answer := acceptCommand .enc .signed .w128 s

/-- ENC.IPTR: encode a signed pointer-width integer (R94). -/
def execEncIPtr (s : State) : Answer := acceptCommand .enc .signed (ptrWidthOf s.ptrWidth) s

end Sys2Proof.Machine
end

