-- ==== Sys2Proof/Machine/Dispatch.lean ====
section
/-! DEFINITION. The meaning of every command: one arm per constructor of `Instr`. -/

namespace Sys2Proof.Machine

def exec (i : Instr) (s : State) : Host.Outcome State Fault Refusal :=
  match i with
  | .encU8 => Sys2Proof.Machine.execEncU8 s
  | .decU8 => Sys2Proof.Machine.execDecU8 s
  | .encI8 => Sys2Proof.Machine.execEncI8 s
  | .decI8 => Sys2Proof.Machine.execDecI8 s
  | .encU16 => Sys2Proof.Machine.execEncU16 s
  | .decU16 => Sys2Proof.Machine.execDecU16 s
  | .encI16 => Sys2Proof.Machine.execEncI16 s
  | .decI16 => Sys2Proof.Machine.execDecI16 s
  | .encU32 => Sys2Proof.Machine.execEncU32 s
  | .decU32 => Sys2Proof.Machine.execDecU32 s
  | .encI32 => Sys2Proof.Machine.execEncI32 s
  | .decI32 => Sys2Proof.Machine.execDecI32 s
  | .encU64 => Sys2Proof.Machine.execEncU64 s
  | .decU64 => Sys2Proof.Machine.execDecU64 s
  | .encI64 => Sys2Proof.Machine.execEncI64 s
  | .decI64 => Sys2Proof.Machine.execDecI64 s
  | .encU128 => Sys2Proof.Machine.execEncU128 s
  | .decU128 => Sys2Proof.Machine.execDecU128 s
  | .encI128 => Sys2Proof.Machine.execEncI128 s
  | .decI128 => Sys2Proof.Machine.execDecI128 s
  | .encUPtr => Sys2Proof.Machine.execEncUPtr s
  | .decUPtr => Sys2Proof.Machine.execDecUPtr s
  | .encIPtr => Sys2Proof.Machine.execEncIPtr s
  | .decIPtr => Sys2Proof.Machine.execDecIPtr s

end Sys2Proof.Machine
end

