-- ==== Sys2Proof/Machine/Turns.lean ====
section
/-! DEFINITION. What each turn of the total order of steps does (R16, R17, R52), and how a command word comes to be the
next thing the machine runs. -/

namespace Sys2Proof.Machine

/-- A host write to CMD: a command request with word c (R19, R20). A legal word runs its command, any other is rejected. -/
def commandRequest (c : Byte) (s : State) : Answer :=
  match decode c with
  | .ok i => exec i s
  | .error _ => .next (rejectWord s)

/-- A host write (R18): to CMD it is a command request, else it goes to the data registers. -/
def hostWrite (r : RegNum) (v : Value) (s : State) : Answer :=
  if r = 0 then commandRequest (commandWord v) s else .next (hostWriteData r v s)

/-- A host move (R17, R64, R65, R138). -/
def hostTurn (m : HostMove) (s : State) : Answer :=
  match m with
  | .write r v => hostWrite r v s
  | .read r => .next (hostRead r s)
  | .wait => .next (hostWait s)
  | .reset => .next (resetBlock s)
  | .attachSink held answers => attachSink held answers s
  | .attachSource answers => attachSource answers s

/-- One turn, in the state from whose schedule it has been taken. -/
def takeTurn (t : Turn) (s : State) : Answer :=
  match t with
  | .host m => hostTurn m s
  | .codec => .next (codecTurn s)
  | .outsideWrite b => outsideWrite b s
  | .outsideRead => outsideRead s

/-- The next turn of the schedule; when none is left, the codec's (R151; log entry 2). -/
def nextTurn (s : State) : Answer :=
  match s.schedule with
  | [] => .next (codecTurn s)
  | t :: rest => takeTurn t { s with schedule := rest }

/-- The host's move that requests the command word c (R19, R64). -/
def requestTurn (c : Byte) : Turn := .host (.write 0 (c.setWidth 128))

/-- The very next turn is that command request (log entry 15). -/
def placeCommand (c : Byte) (s : State) : State :=
  { s with schedule := requestTurn c :: s.schedule }

end Sys2Proof.Machine
end

