-- ==== Sys2Proof/Machine/Step.lean ====
section
/-! DEFINITION. One step of the machine: the next turn of the total order (R16, R52). -/

namespace Sys2Proof.Machine

/-- One atomic step (R16). -/
def step (s : State) : Host.Outcome State Fault Refusal := nextTurn s

/-- The table word w, as the command request that is the very next turn (log entry 15). -/
def State.withFetchWord (s : State) (nbits w : Nat) : State :=
  placeCommand (BitVec.ofNat 8 (w % 2 ^ nbits)) s

end Sys2Proof.Machine
end

