-- ==== Sys2Proof/Machine/System.lean ====
section
/-! DEFINITION. A system of NUM_INSTANCES blocks (R9, R135): a list of machines, each with its own registers and ports. -/

namespace Sys2Proof.Machine

/-- The instances of a system; NUM_INSTANCES is the length, left OPEN (R9; log entry 16). -/
structure System where
  blocks : List State
  deriving DecidableEq, Repr

/-- NUM_INSTANCES is at least 1 (R9). -/
def System.wf (sys : System) : Bool := 1 ≤ sys.blocks.length

/-- A step of instance k: its own state alone is read and written (R135). An instance that does not exist takes none.
DESIGN CHOICE: whether the free values of two instances are related is left open by R135; here each instance names its own
by its own count `State.draws`, so two instances at the same count draw the same one (log entry 27). -/
def System.stepAt (k : Nat) (sys : System) : Host.Outcome System Fault Refusal :=
  match sys.blocks[k]? with
  | none => .next sys
  | some s => match step s with
    | .next t => .next { blocks := sys.blocks.set k t }
    | .fault f => .fault f
    | .refused r => .refused r

end Sys2Proof.Machine
end

