-- ==== Sys2Proof/Machine/Wire.lean ====
section
/-! DEFINITION. The LEB128 wire format as the spec states it on whole sequences (R67 to R73) and the byte list of a whole
ENC command (R79). The machine does not call these; claims compare the machine with them. -/

namespace Sys2Proof.Machine

/-- A sequence of groups: every group but the last continues, the last does not (R68). -/
def isSequence : List Byte → Bool
  | [] => false
  | [b] => !continues b
  | b :: c :: bs => continues b && isSequence (c :: bs)

/-- The unsigned value V of a sequence: the sum of `p_i * 2^(7i)` (R69). -/
def seqValue : List Byte → Nat
  | [] => 0
  | b :: bs => (payload b).toNat + 2 ^ 7 * seqValue bs

/-- Bit 6 of the final group's payload (R70). -/
def finalSign (bs : List Byte) : Bool := (payload (bs.getLastD 0)).getLsbD 6

/-- The signed value Vs of a sequence (R70). -/
def seqValueSigned (bs : List Byte) : Int :=
  (seqValue bs : Int) - if finalSign bs then 2 ^ (7 * bs.length) else 0

/-- The value of a sequence for a signedness: V (R69) or Vs (R70). -/
def seqInt (g : Signedness) (bs : List Byte) : Int :=
  match g with
  | .unsigned => seqValue bs
  | .signed => seqValueSigned bs

/-- The integers of a width and signedness (R71). -/
abbrev InRange (g : Signedness) (w : Width) (x : Int) : Prop :=
  match g with
  | .unsigned => 0 ≤ x ∧ x ≤ 2 ^ widthBits w - 1
  | .signed => -(2 ^ (widthBits w - 1)) ≤ x ∧ x ≤ 2 ^ (widthBits w - 1) - 1

/-- The integer an ENC command encodes: `uval_W` or `sval_W` of OPERAND[W-1:0] (R71). -/
def operandInt (g : Signedness) (w : Width) (operand : Value) : Int :=
  match g with
  | .unsigned => (operandPattern (widthBits w) operand).toNat
  | .signed => (operandPattern (widthBits w) operand).toInt

/-- The RESULT register that holds the integer x: `pat_128(x)` (R11, R30). -/
def resultOf (x : Int) : Value := BitVec.ofInt 128 x

/-- The stop test of R79 on the remaining integer. -/
def lastGroup (g : Signedness) (r : Int) : Bool :=
  match g with
  | .unsigned => r ≤ 127
  | .signed => -64 ≤ r && r ≤ 63

/-- The loop of `EncBytes` (R79), at most `fuel` times round. -/
def encLoop : Nat → Signedness → Int → List Byte
  | 0, _, _ => []
  | fuel + 1, g, r =>
    if lastGroup g r then [BitVec.ofInt 8 (r % 128)]
    else BitVec.ofInt 8 (r % 128 + 128) :: encLoop fuel g (r / 128)

/-- `EncBytes(W, s, x)` (R79). W rounds are more than the loop takes on an integer of the width. -/
def encBytes (w : Width) (g : Signedness) (x : Int) : List Byte := encLoop (widthBits w) g x

end Sys2Proof.Machine
end

