-- ==== Sys2Proof/Safety.lean ====
section
/-! DEFINITION. What claims mean by a good state (the invariants of R22 to R34), by what the host can see (R33), and by a
number of steps in a row (R152). -/

namespace Sys2Proof.Machine

/-- ERR and RVALID fit STATE (R22, R24, R25): ERR is OK outside DONE; RVALID marks a successful DEC; only a DEC ends in
OVERFLOW (R123). -/
abbrev StatusInv (s : State) : Prop :=
  (s.status.state ≠ .done → s.status.err = .ok) ∧
  (s.status.rvalid = true → s.status.state = .done ∧ s.status.err = .ok ∧ s.opk = .dec) ∧
  (s.status.err = .overflow → s.opk = .dec)

/-- COUNT is at most MAXG(W) (R27), LASTB is 0 while COUNT is 0 (R28), and nothing has been transferred in IDLE (R39). -/
abbrev ProgressInv (s : State) : Prop :=
  s.count.toNat ≤ maxGroups s.wid ∧ (s.count = 0 → s.lastb = 0) ∧ (s.status.state = .idle → s.count = 0)

/-- ACC bits 127:W are 0 (R32). -/
abbrev AccInv (s : State) : Prop := s.acc.toNat < 2 ^ widthBits s.wid

/-- The working value of the encoder, as the integer `uval_W` or `sval_W` of ACC[W-1:0] (R34, R76): ACC is read as
OPERAND is (R71). -/
def workInt (s : State) : Int := operandInt s.sgn s.wid s.acc

/-- A BUSY ENC command (R34): COUNT < MAXG(W), SHIFT is 0 (R32), and the remaining value scaled by the groups already sent
is still an integer of the width. -/
abbrev EncInv (s : State) : Prop :=
  s.status.state = .busy → s.opk = .enc →
    s.shift = 0 ∧ s.count.toNat < maxGroups s.wid ∧
    InRange s.sgn s.wid (workInt s * 2 ^ (7 * s.count.toNat))

/-- A BUSY DEC command (R34, R98): SHIFT = 7 * COUNT, and ACC holds only bits of the groups merged so far. -/
abbrev DecInv (s : State) : Prop :=
  s.status.state = .busy → s.opk = .dec →
    s.shift.toNat = 7 * s.count.toNat ∧ s.acc.toNat < 2 ^ (7 * s.count.toNat)

/-- While RVALID is 1, RESULT is a W-bit pattern widened as its signedness says (R30). -/
abbrev ResultInv (s : State) : Prop :=
  s.status.rvalid = true →
    s.result = widen s.sgn (BitVec.setWidth (widthBits s.wid) s.result)

/-- The invariant every step keeps. -/
abbrev Inv (s : State) : Prop :=
  StatusInv s ∧ ProgressInv s ∧ AccInv s ∧ EncInv s ∧ DecInv s ∧ ResultInv s

/-- The seven values of STATUS a host can read (R22). -/
abbrev StatusValues : List (BitVec 8) := [0x00, 0x01, 0x02, 0x12, 0x06, 0x0A, 0x0E]

/-- Two states that differ at most in the hidden registers OPK, SGN, WID, ACC and SHIFT (R32, R33). -/
abbrev SameButHidden (s t : State) : Prop :=
  t = { s with opk := t.opk, sgn := t.sgn, wid := t.wid, acc := t.acc, shift := t.shift }

/-- A final state: no command runs, no turn is left, and no fault has been recorded (93_implementation_defined.md: "the
state is never final" once one has). -/
abbrev Final (s : State) : Prop := s.status.state ≠ .busy ∧ s.schedule = [] ∧ s.faults = []

/-- n steps in a row, stopping at the first fault or refusal. -/
def steps : Nat → State → Answer
  | 0, s => .next s
  | n + 1, s => match step s with
    | .next t => steps n t
    | .fault f => .fault f
    | .refused r => .refused r

/-- Two answers that the host cannot tell apart: the same stop, or next states that differ at most in the hidden
registers (R33). -/
def SameAnswerButHidden : Answer → Answer → Prop
  | .next s, .next t => SameButHidden s t
  | .fault f, .fault g => f = g
  | .refused q, .refused r => q = r
  | _, _ => False

/-- n codec turns in a row. -/
def codecTurns : Nat → State → State
  | 0, s => s
  | n + 1, s => codecTurns n (codecTurn s)

end Sys2Proof.Machine
end

