-- ==== Sys2Proof/Certificates/Slice0/Obligations.lean ====
section
/-! DEFINITION. The statements for the provers, one `def Obligations.<Name> : Prop` each, with the tables and the
reference decoder they compare the machine with. -/

namespace Sys2Proof.Claims

open Sys2Proof.Machine

/-- The command map of R63: word and command. -/
def commandMap : List (Nat × Instr) :=
  [(0x00, .encU8), (0x01, .decU8), (0x02, .encI8), (0x03, .decI8),
   (0x04, .encU16), (0x05, .decU16), (0x06, .encI16), (0x07, .decI16),
   (0x08, .encU32), (0x09, .decU32), (0x0A, .encI32), (0x0B, .decI32),
   (0x0C, .encU64), (0x0D, .decU64), (0x0E, .encI64), (0x0F, .decI64),
   (0x10, .encU128), (0x11, .decU128), (0x12, .encI128), (0x13, .decI128),
   (0x14, .encUPtr), (0x15, .decUPtr), (0x16, .encIPtr), (0x17, .decIPtr)]

/-- The 12 ENC commands with the signedness and width select of rules R83 to R94. -/
def encTable : List (Instr × Signedness × WidthSel) :=
  [(.encU8, .unsigned, .s8), (.encU16, .unsigned, .s16), (.encU32, .unsigned, .s32),
   (.encU64, .unsigned, .s64), (.encU128, .unsigned, .s128), (.encUPtr, .unsigned, .sPtr),
   (.encI8, .signed, .s8), (.encI16, .signed, .s16), (.encI32, .signed, .s32),
   (.encI64, .signed, .s64), (.encI128, .signed, .s128), (.encIPtr, .signed, .sPtr)]

/-- The 12 DEC commands with the signedness and width select of rules R108 to R119. -/
def decTable : List (Instr × Signedness × WidthSel) :=
  [(.decU8, .unsigned, .s8), (.decU16, .unsigned, .s16), (.decU32, .unsigned, .s32),
   (.decU64, .unsigned, .s64), (.decU128, .unsigned, .s128), (.decUPtr, .unsigned, .sPtr),
   (.decI8, .signed, .s8), (.decI16, .signed, .s16), (.decI32, .signed, .s32),
   (.decI64, .signed, .s64), (.decI128, .signed, .s128), (.decIPtr, .signed, .sPtr)]

/-- The codes of OP, SGN and WSEL (R59, R62). -/
def opCode : Unit2 → Nat
  | .enc => 0
  | .dec => 1

def sgnCode : Signedness → Nat
  | .unsigned => 0
  | .signed => 1

def wselCode : WidthSel → Nat
  | .s8 => 0
  | .s16 => 1
  | .s32 => 2
  | .s64 => 3
  | .s128 => 4
  | .sPtr => 5

/-- The next turn is a host write to CMD of a value whose command word is c. -/
abbrev Requests (s : State) (c : Byte) (rest : List Turn) : Prop :=
  ∃ v, commandWord v = c ∧ s.schedule = .host (.write 0 v) :: rest

/-- It is the codec's turn, and `rest` are the turns after it: the codec's turn is scheduled, or no turn is left. -/
abbrev CodecsTurn (s : State) (rest : List Turn) : Prop :=
  s.schedule = .codec :: rest ∨ (s.schedule = [] ∧ rest = [])

/-- A BUSY command of the unit u. -/
abbrev Running (u : Unit2) (s : State) : Prop := s.status.state = .busy ∧ s.opk = u

/-- How an ENC command has ended in u, started from s: what it left in every field the host or the streams show. The bytes
sent stay handed over to the sink, whatever it keeps of them (R44, R57). -/
abbrev EncEnd (s u : State) (e : ErrCode) (sent : List Byte) (answers : List SinkAnswer) : Prop :=
  u.status = { state := .done, err := e, rvalid := false } ∧
  u.count.toNat = sent.length ∧ u.lastb = sent.getLastD 0 ∧ u.sinkAnswers = answers ∧
  u.handed = s.handed ++ sent ∧ u.operand = s.operand ∧ u.operandWritten = s.operandWritten ∧ u.result = s.result ∧
  u.ptrWidth = s.ptrWidth ∧ u.sourceAnswers = s.sourceAnswers ∧ u.schedule = s.schedule ∧
  u.readData = s.readData

/-- How a DEC command has ended in u, started from s, with STATUS st, RESULT r and the bytes it took. -/
abbrev DecEnd (s u : State) (st : Status) (r : Value) (taken : List Byte)
    (answers : List SourceAnswer) : Prop :=
  u.status = st ∧ u.result = r ∧
  u.count.toNat = taken.length ∧ u.lastb = taken.getLastD 0 ∧ u.sourceAnswers = answers ∧
  u.operand = s.operand ∧ u.operandWritten = s.operandWritten ∧
  u.ptrWidth = s.ptrWidth ∧ u.sink = s.sink ∧ u.handed = s.handed ∧ u.sinkAnswers = s.sinkAnswers ∧
  u.schedule = s.schedule ∧ u.readData = s.readData ∧ u.draws = s.draws ∧ u.faults = s.faults

/-- The decoder of R104 that skips the per-group check: it merges every byte and checks the excess bits of the final
group when that group straddles the width. -/
def postLoopTake (b : Byte) (s : State) : State :=
  let t := mergeGroup (payload b) (countByte b s)
  if continues b then t
  else if widthBits t.wid < t.shift.toNat ∧
      (payload b).toNat >>> (widthBits t.wid - (t.shift.toNat - 7)) ≠ 0 then raiseOverflow t
  else finishDec (t.work.setWidth 128) t

/-- A codec turn of that decoder. -/
def postLoopTurn (s : State) : State :=
  if s.status.state ≠ .busy then s
  else if widthBits s.wid < s.shift.toNat then raiseOverflow s
  else match s.sourceAnswers with
    | [] => s
    | .err :: rest => raiseIoError { s with sourceAnswers := rest }
    | .byte b :: rest => postLoopTake b { s with sourceAnswers := rest }

def postLoopTurns : Nat → State → State
  | 0, s => s
  | n + 1, s => postLoopTurns n (postLoopTurn s)

end Sys2Proof.Claims

section
open Sys2Proof Sys2Proof.Machine Sys2Proof.Claims

/-! ### Command words (30_encoding.md) -/

/-- R63: the complete command map, `c = WSEL*4 + SGN*2 + OP`, each command selected by the exact 8-bit value. -/
def Obligations.CommandMapIsExact : Prop :=
  (∀ (c : Byte) (i : Instr), decode c = .ok i ↔ (c.toNat, i) ∈ commandMap) ∧
  commandMap.length = 24 ∧
  ∀ (u : Unit2) (g : Signedness) (ws : WidthSel),
    (wselCode ws * 4 + sgnCode g * 2 + opCode u, commandOf u g ws) ∈ commandMap

/-- Decoding an encoded command gives it back, and a word that decodes is the encoding of its command. -/
def Obligations.DecodeAndEncodeAgree : Prop :=
  (∀ i : Instr, i.wf = true → decode (encode i) = .ok i) ∧
  (∀ (c : Byte) (i : Instr), decode c = .ok i → encode i = c)

/-- R62: the width select table. -/
def Obligations.WidthSelectTable : Prop :=
  (∀ c : Byte, wselField c =
    if (c.extractLsb' 2 3).toNat = 0 then some .s8
    else if (c.extractLsb' 2 3).toNat = 1 then some .s16
    else if (c.extractLsb' 2 3).toNat = 2 then some .s32
    else if (c.extractLsb' 2 3).toNat = 3 then some .s64
    else if (c.extractLsb' 2 3).toNat = 4 then some .s128
    else if (c.extractLsb' 2 3).toNat = 5 then some .sPtr
    else none) ∧
  (∀ p : PtrWidth,
    widthBits (widthOf p .s8) = 8 ∧ widthBits (widthOf p .s16) = 16 ∧ widthBits (widthOf p .s32) = 32 ∧
    widthBits (widthOf p .s64) = 64 ∧ widthBits (widthOf p .s128) = 128) ∧
  widthBits (widthOf .p16 .sPtr) = 16 ∧ widthBits (widthOf .p32 .sPtr) = 32 ∧
  widthBits (widthOf .p64 .sPtr) = 64 ∧
  maxGroups .w8 = 2 ∧ maxGroups .w16 = 3 ∧ maxGroups .w32 = 5 ∧ maxGroups .w64 = 10 ∧ maxGroups .w128 = 19 ∧
  insideBits .w8 = 1 ∧ insideBits .w16 = 2 ∧ insideBits .w32 = 4 ∧ insideBits .w64 = 1 ∧ insideBits .w128 = 2

/-! ### A step runs the requested command (10_state.md section 1) -/

/-- A host write to CMD whose word decodes runs exactly that command, in the state from whose schedule the write has been
taken; so does a word placed by `withFetchWord`. -/
def Obligations.StepRunsTheRequestedCommand : Prop :=
  (∀ (s : State) (c : Byte) (rest : List Turn) (i : Instr),
    Requests s c rest → decode c = .ok i → step s = exec i { s with schedule := rest }) ∧
  ∀ (s : State) (i : Instr), step (s.withFetchWord 8 (encode i).toNat) = exec i s

/-- R20 for ENC: when no command runs and OPERAND has been written (for the time before, see
`RegistersWithoutValueFault`), each of the 12 ENC commands is accepted in one step; ACC takes OPERAND[W-1:0]. -/
def Obligations.EncCommandsAreAccepted : Prop :=
  ∀ row ∈ encTable, ∀ s : State, s.status.state ≠ .busy → s.operandWritten = true →
    exec row.1 s = .next { s with
      status := { state := .busy, err := .ok, rvalid := false }
      count := 0
      lastb := 0
      opk := .enc
      sgn := row.2.1
      wid := widthOf s.ptrWidth row.2.2
      acc := BitVec.ofNat 128 (s.operand.toNat % 2 ^ widthBits (widthOf s.ptrWidth row.2.2))
      shift := 0 }

/-- R20 for DEC: when no command runs, each of the 12 DEC commands is accepted in one step; ACC takes 0. -/
def Obligations.DecCommandsAreAccepted : Prop :=
  ∀ row ∈ decTable, ∀ s : State, s.status.state ≠ .busy →
    exec row.1 s = .next { s with
      status := { state := .busy, err := .ok, rvalid := false }
      count := 0
      lastb := 0
      opk := .dec
      sgn := row.2.1
      wid := widthOf s.ptrWidth row.2.2
      acc := 0
      shift := 0 }

/-- R146 and the first test of R20: while BUSY a command request is dropped, whatever its word, and a write of OPERAND
changes nothing of the running command: its next codec turn is the same but for OPERAND. -/
def Obligations.RequestsWhileBusyAreDropped : Prop :=
  ∀ s : State, s.status.state = .busy →
    (∀ c rest, Requests s c rest → step s = .next { s with schedule := rest }) ∧
    (∀ i : Instr, exec i s = .next s) ∧
    (∀ v rest, s.schedule = .host (.write 4 v) :: rest →
      step s = .next { s with schedule := rest, operand := v, operandWritten := true }) ∧
    (∀ v, codecTurn { s with operand := v, operandWritten := true } =
      { codecTurn s with operand := v, operandWritten := true })

/-- R66 and R124: the words 0x18 to 0xFF encode no command; written while no command runs, each completes at once with
ILLEGAL_CMD and changes nothing but STATUS, COUNT and LASTB. -/
def Obligations.IllegalWordsCompleteAtOnce : Prop :=
  ∀ c : Byte,
    (legalWord c = true ↔ c.toNat ≤ 0x17) ∧
    (legalWord c = true ↔ ∃ i, decode c = .ok i) ∧
    (0x18 ≤ c.toNat → c.toNat ≤ 0x1F → decode c = .error .reservedWidth) ∧
    (0x20 ≤ c.toNat → decode c = .error .reservedBits) ∧
    ∀ (s : State) (rest : List Turn), legalWord c = false → Requests s c rest → s.status.state ≠ .busy →
      step s = .next { s with
        schedule := rest
        status := { state := .done, err := .illegalCmd, rvalid := false }
        count := 0
        lastb := 0 }

/-- R37 and R38: RESULT while RVALID = 0, and OPERAND before its first write, hold no value. A host read of one gives the host
an unspecified value v, and an ENC command accepted before OPERAND's first write encodes an unspecified pattern v: whatever
pattern is left in the register. Each such use is recorded as a fault, and nothing else differs from any other read or
acceptance. `draws` is the model's own count of free values (log entry 8). -/
def Obligations.RegistersWithoutValueFault : Prop :=
  (∀ (s : State) (rest : List Turn), s.schedule = .host (.read 5) :: rest → s.status.rvalid = false →
    ∃ v, ∀ stale, step { s with result := stale } = .next { s with
      result := stale, schedule := rest, readData := v
      draws := s.draws + 1, faults := s.faults ++ [.readNoResult] }) ∧
  (∀ (s : State) (rest : List Turn), s.schedule = .host (.read 4) :: rest → s.operandWritten = false →
    ∃ v, ∀ stale, step { s with operand := stale } = .next { s with
      operand := stale, schedule := rest, readData := v
      draws := s.draws + 1, faults := s.faults ++ [.readUnwritten] }) ∧
  (∀ row ∈ encTable, ∀ s : State, s.status.state ≠ .busy → s.operandWritten = false →
    ∃ v : Value, ∀ stale, exec row.1 { s with operand := stale } = .next { s with
      operand := stale
      status := { state := .busy, err := .ok, rvalid := false }
      count := 0
      lastb := 0
      opk := .enc
      sgn := row.2.1
      wid := widthOf s.ptrWidth row.2.2
      acc := BitVec.ofNat 128 (v.toNat % 2 ^ widthBits (widthOf s.ptrWidth row.2.2))
      shift := 0
      draws := s.draws + 1
      faults := s.faults ++ [.encodedUnwritten] })

/-- 93_implementation_defined.md on `fault` ("a recorded fault; the state is never final"), U3 and U4: no step takes a
recorded fault out, so after one no state is final; and only the uses of R37 and R38 record one. -/
def Obligations.RecordedFaultsStay : Prop :=
  (∀ s t : State, step s = .next t → s.faults <+: t.faults) ∧
  (∀ (s t : State) (n : Nat), s.faults ≠ [] → steps n s = .next t → ¬ Final t) ∧
  (∀ s t : State, step s = .next t → t.faults ≠ s.faults →
    (∃ rest, s.schedule = .host (.read 5) :: rest ∧ s.status.rvalid = false) ∨
    (∃ rest, s.schedule = .host (.read 4) :: rest ∧ s.operandWritten = false) ∨
    (∃ c rest, Requests s c rest ∧ s.status.state ≠ .busy ∧ s.operandWritten = false ∧
      ∃ row ∈ encTable, decode c = .ok row.1))

/-- R132: every command and every host access of R18 is permitted at all times; so are WAIT and reset (R65, R138). -/
def Obligations.HostAccessesAreAlwaysPermitted : Prop :=
  (∀ (i : Instr) (s : State), ∃ t, exec i s = .next t) ∧
  ∀ (s : State) (rest : List Turn),
    (∀ r, s.schedule = .host (.read r) :: rest → ∃ t, step s = .next t) ∧
    (∀ r v, s.schedule = .host (.write r v) :: rest → ∃ t, step s = .next t) ∧
    (s.schedule = .host .wait :: rest → ∃ t, step s = .next t) ∧
    (s.schedule = .host .reset :: rest → ∃ t, step s = .next t)

/-- R88, R94, R113, R119: a pointer-width command acts as the command of the width PTR_WIDTH names. -/
def Obligations.PointerCommandsFollowPtrWidth : Prop :=
  ∀ s : State,
    (s.ptrWidth = .p16 → exec .encUPtr s = exec .encU16 s ∧ exec .encIPtr s = exec .encI16 s ∧
      exec .decUPtr s = exec .decU16 s ∧ exec .decIPtr s = exec .decI16 s) ∧
    (s.ptrWidth = .p32 → exec .encUPtr s = exec .encU32 s ∧ exec .encIPtr s = exec .encI32 s ∧
      exec .decUPtr s = exec .decU32 s ∧ exec .decIPtr s = exec .decI32 s) ∧
    (s.ptrWidth = .p64 → exec .encUPtr s = exec .encU64 s ∧ exec .encIPtr s = exec .encI64 s ∧
      exec .decUPtr s = exec .decU64 s ∧ exec .decIPtr s = exec .decI64 s)

/-- The frame of all 24 commands at acceptance: no command writes OPERAND or RESULT (R40) or moves a stream byte
(R20); and only an ENC command before OPERAND's first write records a fault (R38). -/
def Obligations.AcceptanceFrame : Prop :=
  ∀ (i : Instr) (s t : State), exec i s = .next t →
    t.operand = s.operand ∧ t.operandWritten = s.operandWritten ∧ t.result = s.result ∧
    t.ptrWidth = s.ptrWidth ∧ t.sink = s.sink ∧ t.handed = s.handed ∧ t.sinkAnswers = s.sinkAnswers ∧
    t.sourceAnswers = s.sourceAnswers ∧ t.schedule = s.schedule ∧ t.readData = s.readData ∧
    (s.operandWritten = true ∨ (∃ row ∈ decTable, row.1 = i) → t.draws = s.draws ∧ t.faults = s.faults) ∧
    (t.faults = s.faults ∨ t.faults = s.faults ++ [.encodedUnwritten])

/-! ### Host registers (10_state.md) -/

/-- R22: the layout of STATUS, and the seven values a host can read in a state that meets the invariant. -/
def Obligations.StatusLayout : Prop :=
  (∀ st : Status,
    (st.word.extractLsb' 0 2).toNat = (match st.state with | .idle => 0 | .busy => 1 | .done => 2) ∧
    (st.word.extractLsb' 2 2).toNat =
      (match st.err with | .ok => 0 | .ioError => 1 | .overflow => 2 | .illegalCmd => 3) ∧
    st.word.getLsbD 4 = st.rvalid ∧
    st.word.extractLsb' 5 3 = 0) ∧
  ∀ s : State, Inv s → s.status.word ∈ StatusValues

/-- R18, R19, R31, R54: what a host read of each register number returns; nothing but the value read changes. -/
def Obligations.HostReadsReturnTheRegisters : Prop :=
  ∀ (s : State) (r : RegNum) (rest : List Turn), s.schedule = .host (.read r) :: rest →
    (r.toNat = 0 → step s = .next { s with schedule := rest, readData := 0 }) ∧
    (r.toNat = 1 → step s = .next { s with schedule := rest, readData := s.status.word.setWidth 128 }) ∧
    (r.toNat = 2 → step s = .next { s with schedule := rest, readData := s.count.setWidth 128 }) ∧
    (r.toNat = 3 → step s = .next { s with schedule := rest, readData := s.lastb.setWidth 128 }) ∧
    (r.toNat = 4 → s.operandWritten = true →
      step s = .next { s with schedule := rest, readData := s.operand }) ∧
    (r.toNat = 5 → s.status.rvalid = true →
      step s = .next { s with schedule := rest, readData := s.result }) ∧
    (6 ≤ r.toNat → step s = .next { s with schedule := rest, readData := 0 })

/-- R26, R29, R31: a host write of OPERAND takes the whole value; writes to STATUS, COUNT, LASTB, RESULT and the unassigned
numbers change nothing. -/
def Obligations.HostWritesReachOnlyOperand : Prop :=
  ∀ (s : State) (r : RegNum) (v : Value) (rest : List Turn), s.schedule = .host (.write r v) :: rest →
    (r.toNat = 4 → step s = .next { s with schedule := rest, operand := v, operandWritten := true }) ∧
    (r.toNat ≠ 0 → r.toNat ≠ 4 → step s = .next { s with schedule := rest })

/-- R65: WAIT reads STATUS and ends at the first read whose STATE is not BUSY; until then the codec moves between reads. -/
def Obligations.WaitPollsStatus : Prop :=
  ∀ (s : State) (rest : List Turn), s.schedule = .host .wait :: rest →
    (s.status.state ≠ .busy →
      step s = .next { s with schedule := rest, readData := s.status.word.setWidth 128 }) ∧
    (s.status.state = .busy →
      step s = .next { s with
        schedule := .codec :: .host .wait :: rest
        readData := s.status.word.setWidth 128 })

/-! ### The encoder (40_encode.md) -/

/-- R75: the stop test and its equivalent forms, at every width. -/
def Obligations.EncoderStopTest : Prop :=
  ∀ (w : Width) (a : BitVec (widthBits w)),
    (encFinal .unsigned a = true ↔ a.toNat ≤ 0x7F) ∧
    (encFinal .unsigned a = true ↔ a >>> 7 = 0) ∧
    (encFinal .signed a = true ↔ -64 ≤ a.toInt ∧ a.toInt ≤ 63) ∧
    (encFinal .signed a = true ↔
      (a.sshiftRight 7 = 0 ∧ a.getLsbD 6 = false) ∨
      (a.sshiftRight 7 = BitVec.allOnes (widthBits w) ∧ a.getLsbD 6 = true))

/-- R77 and R78: the shifts are floor division by 128, the minimum value is not final, every unsigned value gives at least
one byte (0 gives 0x00), and bit 6 of the final byte is the sign of the encoded integer. -/
def Obligations.EncoderShiftsKeepTheSign : Prop :=
  ∀ w : Width,
    (∀ a : BitVec (widthBits w),
      (shiftGroup .unsigned a).toNat = a.toNat / 128 ∧
      (shiftGroup .signed a).toInt = a.toInt / 128) ∧
    encFinal .signed (BitVec.intMin (widthBits w)) = false ∧
    encBytes w .unsigned 0 = [0x00] ∧
    (∀ x, InRange .unsigned w x → encBytes w .unsigned x ≠ []) ∧
    (∀ x, InRange .signed w x → ((encBytes w .signed x).getLastD 0).getLsbD 6 = decide (x < 0))

/-- R76: one codec step of a BUSY ENC command, with the working value read as the integer it stands for. What the sink
holds after it answered ERR is not stated (R57); `drawn` is the model's own count of free values (log entry 8). -/
def Obligations.EncoderStep : Prop :=
  ∀ (s : State) (turns : List Turn), Running .enc s → CodecsTurn s turns →
    (∀ rest, s.sinkAnswers = .err :: rest →
      ∃ held drawn, step s = .next { s with
        schedule := turns
        sinkAnswers := rest
        sink := held
        draws := drawn
        status := { state := .done, err := .ioError, rvalid := false } }) ∧
    (∀ rest, s.sinkAnswers = .ack :: rest → lastGroup s.sgn (workInt s) = true →
      step s = .next { s with
        schedule := turns
        sinkAnswers := rest
        sink := s.sink ++ [BitVec.ofInt 8 (workInt s % 128)]
        handed := s.handed ++ [BitVec.ofInt 8 (workInt s % 128)]
        count := s.count + 1
        lastb := BitVec.ofInt 8 (workInt s % 128)
        status := { state := .done, err := .ok, rvalid := false } }) ∧
    (∀ rest, s.sinkAnswers = .ack :: rest → lastGroup s.sgn (workInt s) = false →
      step s = .next { s with
        schedule := turns
        sinkAnswers := rest
        sink := s.sink ++ [BitVec.ofInt 8 (workInt s % 128 + 128)]
        handed := s.handed ++ [BitVec.ofInt 8 (workInt s % 128 + 128)]
        count := s.count + 1
        lastb := BitVec.ofInt 8 (workInt s % 128 + 128)
        acc := BitVec.ofInt 128 (workInt s / 128 % 2 ^ widthBits s.wid) })

/-- R79: the bytes a whole ENC command emits are `EncBytes(W, s, x)`, in order, for each of the 12 ENC commands; and with a
sink that answers ACK j times and then ERR (the rule's j is this j plus 1) the command offers byte j after the j
acknowledged ones, ends with IO_ERROR, and COUNT is j. x is the integer of OPERAND, or of an unspecified pattern v before
OPERAND's first write (R38). -/
def Obligations.EncodeEmitsEncBytes : Prop :=
  ∀ row ∈ encTable, ∀ s : State, s.status.state ≠ .busy → s.schedule = [] →
    ∃ t v, exec row.1 s = .next t ∧ (s.operandWritten = true → v = s.operand) ∧
      ∀ bs, bs = encBytes (widthOf s.ptrWidth row.2.2) row.2.1
          (operandInt row.2.1 (widthOf s.ptrWidth row.2.2) v) →
        (∀ rest, s.sinkAnswers = List.replicate bs.length .ack ++ rest →
          ∃ u, steps bs.length t = .next u ∧ EncEnd s u .ok bs rest ∧
            u.sink = s.sink ++ bs ∧ u.draws = t.draws ∧ u.faults = t.faults) ∧
        (∀ j rest, j < bs.length → s.sinkAnswers = List.replicate j .ack ++ .err :: rest →
          ∃ m u, steps j t = .next m ∧ m.sink = s.sink ++ bs.take j ∧
            Running .enc m ∧ bs[j]? = some (encByte m) ∧
            steps (j + 1) t = .next u ∧ EncEnd s u .ioError (bs.take j) rest ∧ u.faults = t.faults)

/-- R80: length and canonical form of `EncBytes`. -/
def Obligations.EncodingIsCanonical : Prop :=
  ∀ (w : Width) (g : Signedness) (x : Int), InRange g w x →
    ∀ bs, bs = encBytes w g x →
      isSequence bs = true ∧ seqInt g bs = x ∧ bs.length ≤ maxGroups w ∧
      (g = .unsigned → bs.length = max 1 ((Nat.size x.toNat + 6) / 7)) ∧
      (g = .signed → ∀ n, 1 ≤ n →
        ((-(2 ^ (7 * n - 1)) ≤ x ∧ x ≤ 2 ^ (7 * n - 1) - 1) ↔ bs.length ≤ n)) ∧
      (∀ cs, isSequence cs = true → seqInt g cs = x → bs.length ≤ cs.length) ∧
      (g = .unsigned → x = 2 ^ widthBits w - 1 → bs.length = maxGroups w) ∧
      (g = .signed → x = -(2 ^ (widthBits w - 1)) → bs.length = maxGroups w) ∧
      (g = .signed → x = 2 ^ (widthBits w - 1) - 1 → bs.length = maxGroups w)

/-- R81: an ENC command never raises Overflow, never writes RESULT, leaves RVALID 0, and has no failure but the sink's. -/
def Obligations.EncoderNeverOverflows : Prop :=
  ∀ s t : State, Inv s → Running .enc s → codecStep s = some t →
    t.status.err ≠ .overflow ∧ t.result = s.result ∧ t.status.rvalid = false ∧
    (t.status.err ≠ .ok → ∃ rest, s.sinkAnswers = .err :: rest)

/-! ### The decoder (41_decode.md) -/

/-- R95: one codec step of a BUSY DEC command. The premise on SHIFT holds in every state that meets the invariant. -/
def Obligations.DecoderStep : Prop :=
  ∀ (s : State) (turns : List Turn), Running .dec s → CodecsTurn s turns → s.shift.toNat % 7 = 0 →
    ∀ W sh, W = widthBits s.wid → sh = s.shift.toNat →
    (W < sh →
      step s = .next { s with
        schedule := turns, status := { state := .done, err := .overflow, rvalid := false } }) ∧
    (∀ rest, sh ≤ W → s.sourceAnswers = .err :: rest →
      step s = .next { s with
        schedule := turns, sourceAnswers := rest
        status := { state := .done, err := .ioError, rvalid := false } }) ∧
    (∀ b rest p acc, sh ≤ W → s.sourceAnswers = .byte b :: rest → p = b.toNat % 128 →
      acc = (s.acc.toNat % 2 ^ W) ||| (p * 2 ^ sh % 2 ^ W) →
      (s.sgn = .unsigned → 2 ^ W ≤ p * 2 ^ sh →
        step s = .next { s with
          schedule := turns, sourceAnswers := rest, count := s.count + 1, lastb := b
          status := { state := .done, err := .overflow, rvalid := false } }) ∧
      ((s.sgn = .unsigned → p * 2 ^ sh < 2 ^ W) → 128 ≤ b.toNat →
        step s = .next { s with
          schedule := turns, sourceAnswers := rest, count := s.count + 1, lastb := b
          acc := BitVec.ofNat 128 acc, shift := s.shift + 7 }) ∧
      (s.sgn = .unsigned → p * 2 ^ sh < 2 ^ W → b.toNat < 128 →
        step s = .next { s with
          schedule := turns, sourceAnswers := rest, count := s.count + 1, lastb := b
          acc := BitVec.ofNat 128 acc, shift := s.shift + 7
          result := BitVec.ofNat 128 acc
          status := { state := .done, err := .ok, rvalid := true } }) ∧
      (s.sgn = .signed → b.toNat < 128 →
        (W < sh + 7 ∧ p >>> (W - sh - 1) ≠ 0 ∧ p >>> (W - sh - 1) ≠ 2 ^ (8 - (W - sh)) - 1) →
        step s = .next { s with
          schedule := turns, sourceAnswers := rest, count := s.count + 1, lastb := b
          acc := BitVec.ofNat 128 acc, shift := s.shift + 7
          status := { state := .done, err := .overflow, rvalid := false } }) ∧
      (s.sgn = .signed → b.toNat < 128 →
        (sh + 7 ≤ W ∨ p >>> (W - sh - 1) = 0 ∨ p >>> (W - sh - 1) = 2 ^ (8 - (W - sh)) - 1) →
        step s = .next { s with
          schedule := turns, sourceAnswers := rest, count := s.count + 1, lastb := b
          acc := BitVec.ofNat 128 acc, shift := s.shift + 7
          result := BitVec.signExtend 128 (BitVec.ofNat (min (sh + 7) W) acc)
          status := { state := .done, err := .ok, rvalid := true } }))

/-- R96: the guard ends the command with Overflow and reads nothing, whatever the source would answer; it fires exactly
when MAXG(W) groups have been read; SHIFT is a multiple of 7 and never equal to W. -/
def Obligations.LengthGuard : Prop :=
  (∀ s : State, Running .dec s → widthBits s.wid < s.shift.toNat →
    codecStep s = some { s with status := { state := .done, err := .overflow, rvalid := false } }) ∧
  (∀ s : State, Inv s → Running .dec s →
    s.count.toNat ≤ maxGroups s.wid ∧ s.shift.toNat % 7 = 0 ∧ s.shift.toNat ≠ widthBits s.wid ∧
    (widthBits s.wid < s.shift.toNat ↔ s.count.toNat = maxGroups s.wid) ∧
    (s.shift.toNat ≤ widthBits s.wid ↔ s.shift.toNat ≤ 7 * (maxGroups s.wid - 1)))

/-- R99: the unsigned per-group check ends the command with Overflow, counts the byte, leaves ACC and SHIFT, whatever the
continuation flag; it fires only on the straddling group, exactly when an excess bit is set. -/
def Obligations.UnsignedPerGroupCheck : Prop :=
  ∀ (s : State) (b : Byte) (rest : List SourceAnswer), Inv s → Running .dec s → s.sgn = .unsigned →
    s.shift.toNat ≤ widthBits s.wid → s.sourceAnswers = .byte b :: rest →
    (2 ^ widthBits s.wid ≤ (payload b).toNat * 2 ^ s.shift.toNat →
      codecStep s = some { s with
        sourceAnswers := rest, count := s.count + 1, lastb := b
        status := { state := .done, err := .overflow, rvalid := false } }) ∧
    (2 ^ widthBits s.wid ≤ (payload b).toNat * 2 ^ s.shift.toNat ↔
      s.count.toNat + 1 = maxGroups s.wid ∧ (payload b).toNat >>> insideBits s.wid ≠ 0)

/-- R101: the signed check ends the command with Overflow exactly when the final group straddles the width and its payload
bits 6 to k-1 are not all equal. -/
def Obligations.SignedExcessCheck : Prop :=
  ∀ (s : State) (b : Byte) (rest : List SourceAnswer), Inv s → Running .dec s → s.sgn = .signed →
    s.shift.toNat ≤ widthBits s.wid → s.sourceAnswers = .byte b :: rest → continues b = false →
    ∃ t, codecStep s = some t ∧ t.status.state = .done ∧
      (t.status.err = .overflow ↔
        s.count.toNat + 1 = maxGroups s.wid ∧
        ¬ ∀ j, insideBits s.wid - 1 ≤ j → j ≤ 6 →
          (payload b).getLsbD j = (payload b).getLsbD (insideBits s.wid - 1)) ∧
      (t.status.err ≠ .overflow → t.status.err = .ok ∧ t.status.rvalid = true)

/-- R105: the outcome of each of the 12 DEC commands on every sequence of source answers, in the four cases of the rule,
with what it leaves in the source (R57, R58); a sequence of fewer than MAXG(W) groups always fits. -/
def Obligations.DecodeOutcomes : Prop :=
  (∀ g w bs, isSequence bs = true → bs.length < maxGroups w → InRange g w (seqInt g bs)) ∧
  ∀ row ∈ decTable, ∀ s : State, s.status.state ≠ .busy → s.schedule = [] →
    ∃ t, exec row.1 s = .next t ∧
      ∀ w, w = widthOf s.ptrWidth row.2.2 →
        (∀ bs rest, bs.length < maxGroups w → bs.all continues = true →
          s.sourceAnswers = bs.map .byte ++ .err :: rest →
          ∃ u, steps (bs.length + 1) t = .next u ∧
            DecEnd s u { state := .done, err := .ioError, rvalid := false } s.result bs rest) ∧
        (∀ bs rest, bs.length = maxGroups w → bs.all continues = true →
          s.sourceAnswers = bs.map .byte ++ rest →
          ∃ u, steps (bs.length + 1) t = .next u ∧
            DecEnd s u { state := .done, err := .overflow, rvalid := false } s.result bs rest) ∧
        (∀ bs rest, isSequence bs = true → bs.length ≤ maxGroups w →
          s.sourceAnswers = bs.map .byte ++ rest →
          ¬ InRange row.2.1 w (seqInt row.2.1 bs) →
          ∃ u, steps bs.length t = .next u ∧
            DecEnd s u { state := .done, err := .overflow, rvalid := false } s.result bs rest) ∧
        (∀ bs rest, isSequence bs = true → bs.length ≤ maxGroups w →
          s.sourceAnswers = bs.map .byte ++ rest →
          InRange row.2.1 w (seqInt row.2.1 bs) →
          ∃ u, steps bs.length t = .next u ∧
            DecEnd s u { state := .done, err := .ok, rvalid := true }
              (resultOf (seqInt row.2.1 bs)) bs rest)

/-- R107: a DEC command that reads the bytes `EncBytes(W, s, x)` gives x back and leaves the source just after them. -/
def Obligations.DecodeOfEncodeIsTheInteger : Prop :=
  ∀ row ∈ decTable, ∀ (s : State) (x : Int) (rest : List SourceAnswer),
    s.status.state ≠ .busy → s.schedule = [] →
    InRange row.2.1 (widthOf s.ptrWidth row.2.2) x →
    ∀ bs, bs = encBytes (widthOf s.ptrWidth row.2.2) row.2.1 x →
      s.sourceAnswers = bs.map .byte ++ rest →
      ∃ t u, exec row.1 s = .next t ∧ steps bs.length t = .next u ∧
        DecEnd s u { state := .done, err := .ok, rvalid := true } (resultOf x) bs rest

/-- R34 and R98: the working registers of a running command. After j acknowledged groups of an ENC command ACC is the W-bit
pattern of `floor(x / 2^(7j))`, x being the integer of OPERAND, or of an unspecified pattern before its first write (R38);
after the continuing groups `bs` of a DEC command, none of them past the width for an unsigned one, ACC is `trunc_W` of
their value, SHIFT is 7 times their number, and both commands still run. -/
def Obligations.WorkingRegistersFollowTheGroups : Prop :=
  (∀ row ∈ encTable, ∀ s : State, s.status.state ≠ .busy → s.schedule = [] →
    ∃ t v, exec row.1 s = .next t ∧ (s.operandWritten = true → v = s.operand) ∧
      ∀ w x, w = widthOf s.ptrWidth row.2.2 → x = operandInt row.2.1 w v →
        ∀ j rest, j < (encBytes w row.2.1 x).length → s.sinkAnswers = List.replicate j .ack ++ rest →
          ∃ u, steps j t = .next u ∧ Running .enc u ∧ u.count.toNat = j ∧ u.shift = 0 ∧
            u.acc = BitVec.ofInt 128 (x / 2 ^ (7 * j) % 2 ^ widthBits w)) ∧
  (∀ row ∈ decTable, ∀ s : State, s.status.state ≠ .busy → s.schedule = [] →
    ∃ t, exec row.1 s = .next t ∧
      ∀ w, w = widthOf s.ptrWidth row.2.2 →
        ∀ bs rest, bs.length ≤ maxGroups w → bs.all continues = true →
          (row.2.1 = .unsigned → seqValue bs < 2 ^ widthBits w) →
          s.sourceAnswers = bs.map .byte ++ rest →
          ∃ u, steps bs.length t = .next u ∧ Running .dec u ∧ u.count.toNat = bs.length ∧
            u.shift.toNat = 7 * bs.length ∧ u.acc.toNat = seqValue bs % 2 ^ widthBits w)

/-- R106: a redundant group (payload 0x00 for a non-negative value, 0x7F for a negative one) after the last group of a
sequence keeps its value; so a padded sequence of at most MAXG(W) groups decodes to the same integer. -/
def Obligations.PaddingKeepsTheValue : Prop :=
  ∀ (g : Signedness) (bs : List Byte), isSequence bs = true →
    ∀ fill cs, fill = (if seqInt g bs < 0 then 0x7F#8 else 0x00#8) →
      cs = bs.dropLast ++ [bs.getLastD 0 ||| 0x80, fill] →
      (isSequence cs = true ∧ seqInt g cs = seqInt g bs) ∧
      ∀ row ∈ decTable, row.2.1 = g → ∀ (s : State) (rest : List SourceAnswer),
        s.status.state ≠ .busy → s.schedule = [] →
        InRange g (widthOf s.ptrWidth row.2.2) (seqInt g bs) →
        cs.length ≤ maxGroups (widthOf s.ptrWidth row.2.2) →
        s.sourceAnswers = cs.map .byte ++ rest →
        ∃ t u, exec row.1 s = .next t ∧ steps cs.length t = .next u ∧
          DecEnd s u { state := .done, err := .ok, rvalid := true } (resultOf (seqInt g bs)) cs rest

/-- R104: for unsigned widths the per-group check and the post-loop check give the same outcome on every input: after
MAXG(W) + 1 codec turns or more the two decoders differ at most in the hidden registers. -/
def Obligations.UnsignedCheckPoliciesAgree : Prop :=
  ∀ (s : State) (n : Nat), Inv s → Running .dec s → s.sgn = .unsigned → maxGroups s.wid + 1 ≤ n →
    SameButHidden (codecTurns n s) (postLoopTurns n s)

/-! ### Completions, transitions and frames (10_state.md, 20_memory.md, 60_exceptions.md) -/

/-- R23: every change of STATE is one of the listed transitions, with its cause. -/
def Obligations.StateTransitions : Prop :=
  ∀ s t : State, step s = .next t →
    t.status.state = s.status.state ∨
    (s.status.state ≠ .busy ∧ t.status.state = .busy ∧
      ∃ c rest, Requests s c rest ∧ legalWord c = true) ∨
    (s.status.state = .idle ∧ t.status.state = .done ∧ t.status.err = .illegalCmd ∧
      ∃ c rest, Requests s c rest ∧ legalWord c = false) ∨
    (s.status.state = .busy ∧ t.status.state = .done ∧ ∃ turns, CodecsTurn s turns) ∨
    (t.status.state = .idle ∧ ∃ turns, s.schedule = .host .reset :: turns)

/-- R30, R126: RESULT changes only in the step in which a DEC command completes with finish OK, or in a reset (which leaves
it without a value). -/
def Obligations.OnlySuccessfulDecWritesResult : Prop :=
  ∀ s t : State, step s = .next t → t.result ≠ s.result →
    (Running .dec s ∧ t.status = { state := .done, err := .ok, rvalid := true }) ∨
    (t.status.rvalid = false ∧ ∃ turns, s.schedule = .host .reset :: turns)

/-- R24, R25, R130: ERR and RVALID change only by an accepted command request, a completion or a reset. -/
def Obligations.StatusChangesOnlyByRequestCompletionOrReset : Prop :=
  ∀ s t : State, step s = .next t → t.status ≠ s.status →
    (s.status.state ≠ .busy ∧ ∃ c rest, Requests s c rest) ∨
    (s.status.state = .busy ∧ t.status.state = .done ∧ ∃ turns, CodecsTurn s turns) ∨
    ∃ turns, s.schedule = .host .reset :: turns

/-- R41: the unit, the width and the signedness of the running command do not change until it completes. -/
def Obligations.WidthAndSignednessAreFixed : Prop :=
  ∀ s t : State, s.status.state = .busy → step s = .next t →
    (∀ turns, s.schedule ≠ .host .reset :: turns) →
    t.opk = s.opk ∧ t.sgn = s.sgn ∧ t.wid = s.wid

/-- R27, R28, R44, R46, R53: one codec step moves at most one byte: an acknowledged one is appended to the sink, a delivered
one is consumed from the source, each is counted once and stands in LASTB, and the other stream is untouched. -/
def Obligations.OneByteAStep : Prop :=
  ∀ s t : State, codecStep s = some t →
    (s.opk = .enc → t.sourceAnswers = s.sourceAnswers ∧
      ((∃ b rest, s.sinkAnswers = .ack :: rest ∧ t.sinkAnswers = rest ∧ t.sink = s.sink ++ [b] ∧
          t.handed = s.handed ++ [b] ∧ t.count = s.count + 1 ∧ t.lastb = b) ∨
       (∃ rest, s.sinkAnswers = .err :: rest ∧ t.sinkAnswers = rest ∧ t.handed = s.handed ∧
          t.count = s.count ∧ t.lastb = s.lastb ∧ t.status.err = .ioError))) ∧
    (s.opk = .dec → t.sink = s.sink ∧ t.handed = s.handed ∧ t.sinkAnswers = s.sinkAnswers ∧
      ((∃ b rest, s.sourceAnswers = .byte b :: rest ∧ t.sourceAnswers = rest ∧
          t.count = s.count + 1 ∧ t.lastb = b) ∨
       (∃ rest, s.sourceAnswers = .err :: rest ∧ t.sourceAnswers = rest ∧
          t.count = s.count ∧ t.lastb = s.lastb ∧ t.status.err = .ioError) ∨
       (t.sourceAnswers = s.sourceAnswers ∧ t.count = s.count ∧ t.lastb = s.lastb ∧
          t.status.err = .overflow)))

/-- The frame of a codec step (R29, R32, R40): no command writes OPERAND, an ENC step leaves SHIFT and RESULT, and a step that
does not complete leaves STATUS; what only the host or the system sets is untouched. -/
def Obligations.CodecStepFrame : Prop :=
  ∀ s t : State, codecStep s = some t →
    t.operand = s.operand ∧ t.operandWritten = s.operandWritten ∧
    t.opk = s.opk ∧ t.sgn = s.sgn ∧ t.wid = s.wid ∧ t.ptrWidth = s.ptrWidth ∧
    t.schedule = s.schedule ∧ t.readData = s.readData ∧ t.faults = s.faults ∧
    (s.opk = .dec → t.draws = s.draws) ∧
    (s.opk = .enc → t.shift = s.shift ∧ t.result = s.result) ∧
    (t.status.state ≠ .done → t.status = s.status ∧ t.result = s.result) ∧
    (t.status.rvalid = false → t.result = s.result)

/-- R33: no hidden state carries over. From two states without a running command that differ at most in the hidden
registers, every command does exactly the same, and so does every run as far as the host can see. The two states have the
same `draws`, so the runs are compared under the same free values (log entry 27). -/
def Obligations.NoHiddenCarryOver : Prop :=
  ∀ s t : State, SameButHidden s t → s.status.state ≠ .busy →
    (∀ i : Instr, ∃ u, exec i s = .next u ∧ exec i t = .next u) ∧
    ∀ n, SameAnswerButHidden (steps n s) (steps n t)

/-! ### Reset, hazards, progress (70_reset_and_hazards.md) -/

/-- R39: the state after reset, as far as the spec gives it a value; OPERAND and RESULT hold none, and a read of one is a
fault to record. -/
def Obligations.ResetValues : Prop :=
  State.reset.status.word = 0x00 ∧ State.reset.status.state = .idle ∧ State.reset.status.err = .ok ∧
  State.reset.status.rvalid = false ∧ State.reset.count = 0x00 ∧ State.reset.lastb = 0x00 ∧
  readRegister 0 State.reset = .ok 0x00 ∧
  readRegister 4 State.reset = .error .readUnwritten ∧
  readRegister 5 State.reset = .error .readNoResult

/-- R138 and R139: reset in any state is one step; it gives the registers their reset values, abandons a running command
without a completion, and undoes no stream transfer: what was handed to the sink or taken from the source stays so. What
the sink keeps is unspecified if the reset cuts an ENC command short (R57, R147, U1), whatever it held; else it is as it
was. -/
def Obligations.ResetInAnyState : Prop :=
  ∀ (s : State) (rest : List Turn), s.schedule = .host .reset :: rest →
    (∃ t, step s = .next t ∧
      t.status = { state := .idle, err := .ok, rvalid := false } ∧ t.count = 0 ∧ t.lastb = 0 ∧
      readRegister 4 t = .error .readUnwritten ∧ readRegister 5 t = .error .readNoResult ∧
      codecStep t = none ∧
      t.handed = s.handed ∧ t.sinkAnswers = s.sinkAnswers ∧ t.sourceAnswers = s.sourceAnswers ∧
      t.ptrWidth = s.ptrWidth ∧ t.schedule = rest ∧ t.readData = s.readData ∧ t.faults = s.faults ∧
      (¬ Running .enc s → t.sink = s.sink ∧ t.draws = s.draws)) ∧
    (Running .enc s → ∃ held, ∀ kept, ∃ t, step { s with sink := kept } = .next t ∧ t.sink = held)

/-- R137: between commands the codec takes no step and every register keeps its value. -/
def Obligations.NothingMovesBetweenCommands : Prop :=
  ∀ s : State, s.status.state ≠ .busy →
    codecStep s = none ∧ (s.schedule = [] → ∀ n, steps n s = .next s)

/-- R150: a stream that never answers leaves the command BUSY for ever, and WAIT never ends. -/
def Obligations.SilentStreamHangs : Prop :=
  ∀ s : State, s.status.state = .busy →
    (s.opk = .enc ∧ s.sinkAnswers = [] ∨
     s.opk = .dec ∧ s.sourceAnswers = [] ∧ s.shift.toNat ≤ widthBits s.wid) →
    codecStep s = none ∧
    (s.schedule = [] → ∀ n, steps n s = .next s) ∧
    (s.schedule = [.host .wait] → ∀ n, ∃ t, steps n s = .next t ∧
      t.status.state = .busy ∧ .host .wait ∈ t.schedule)

/-- R152, R8: a running command whose stream answers ends within MAXG(W) + 1 codec steps of its acceptance. -/
def Obligations.CommandsEndWithinMaxGroups : Prop :=
  ∀ s : State, Inv s → s.status.state = .busy → s.schedule = [] →
    (s.opk = .enc → maxGroups s.wid ≤ s.sinkAnswers.length) →
    (s.opk = .dec → maxGroups s.wid ≤ s.sourceAnswers.length) →
    ∃ n t, n ≤ maxGroups s.wid + 1 ∧ steps n s = .next t ∧ t.status.state = .done

/-- R145: a transfer of another agent on the stream of the running command is refused, and so is attaching another stream to
its port (the model's choice, log entry 17); at any other time both have their ordinary effect on that stream. -/
def Obligations.SharedStreamsAreRefused : Prop :=
  ∀ (s : State) (rest : List Turn),
    (∀ b, s.schedule = .outsideWrite b :: rest →
      (Running .enc s → step s = .refused .streamShared) ∧
      (¬ Running .enc s → step s = .next { s with schedule := rest, sink := s.sink ++ [b] })) ∧
    (s.schedule = .outsideRead :: rest →
      (Running .dec s → step s = .refused .streamShared) ∧
      (¬ Running .dec s →
        step s = .next { s with schedule := rest, sourceAnswers := s.sourceAnswers.tail })) ∧
    (∀ held answers, s.schedule = .host (.attachSink held answers) :: rest →
      (Running .enc s → step s = .refused .streamReplaced) ∧
      (¬ Running .enc s →
        step s = .next { s with schedule := rest, sink := held, handed := [], sinkAnswers := answers })) ∧
    (∀ answers, s.schedule = .host (.attachSource answers) :: rest →
      (Running .dec s → step s = .refused .streamReplaced) ∧
      (¬ Running .dec s → step s = .next { s with schedule := rest, sourceAnswers := answers }))

/-- R135: a step of one instance neither reads nor writes the state of another. Nothing is said of whether the free values
of two instances are related, which R135 leaves open (log entry 27). -/
def Obligations.InstancesShareNothing : Prop :=
  ∀ (sys : System) (k : Nat) (s : State), sys.blocks[k]? = some s →
    (∀ sys', sys.stepAt k = .next sys' →
      sys'.blocks.length = sys.blocks.length ∧ (∀ j, j ≠ k → sys'.blocks[j]? = sys.blocks[j]?) ∧
      ∃ t, step s = .next t ∧ sys'.blocks[k]? = some t) ∧
    (∀ t, step s = .next t → ∃ sys', sys.stepAt k = .next sys') ∧
    (∀ f, sys.stepAt k = .fault f ↔ step s = .fault f) ∧
    (∀ r, sys.stepAt k = .refused r ↔ step s = .refused r)

/-! ### The invariant (R22 to R34) -/

/-- The invariant holds after reset. It rests on the model's choice of WID and SHIFT there only through values no rule reads
(log entry 7). -/
def Obligations.InvariantAtReset : Prop := Inv State.reset

/-- Every step keeps the invariant: ERR and RVALID fit STATE (R24, R25), COUNT is at most MAXG(W) (R27), LASTB is 0 while
COUNT is 0 (R28), ACC stays in its width (R32), a BUSY command's SHIFT and ACC are as R34 says, and RESULT is a widened
W-bit pattern while RVALID is 1 (R30). -/
def Obligations.EveryStepKeepsTheInvariant : Prop :=
  ∀ s t : State, Inv s → step s = .next t → Inv t

end
end

