-- ==== Sys2Proof/Laws/State.lean ====
section
/-! SUPPORT. One lemma per field per state update: what the update leaves in that field. -/

namespace Sys2Proof.Machine

/-! ### recordFault -/

@[simp] theorem recordFault_status (f : RecordedFault) (s : State) :
    (recordFault f s).status = s.status := rfl
@[simp] theorem recordFault_count (f : RecordedFault) (s : State) :
    (recordFault f s).count = s.count := rfl
@[simp] theorem recordFault_lastb (f : RecordedFault) (s : State) :
    (recordFault f s).lastb = s.lastb := rfl
@[simp] theorem recordFault_operand (f : RecordedFault) (s : State) :
    (recordFault f s).operand = s.operand := rfl
@[simp] theorem recordFault_operandWritten (f : RecordedFault) (s : State) :
    (recordFault f s).operandWritten = s.operandWritten := rfl
@[simp] theorem recordFault_result (f : RecordedFault) (s : State) :
    (recordFault f s).result = s.result := rfl
@[simp] theorem recordFault_opk (f : RecordedFault) (s : State) :
    (recordFault f s).opk = s.opk := rfl
@[simp] theorem recordFault_sgn (f : RecordedFault) (s : State) :
    (recordFault f s).sgn = s.sgn := rfl
@[simp] theorem recordFault_wid (f : RecordedFault) (s : State) :
    (recordFault f s).wid = s.wid := rfl
@[simp] theorem recordFault_acc (f : RecordedFault) (s : State) :
    (recordFault f s).acc = s.acc := rfl
@[simp] theorem recordFault_shift (f : RecordedFault) (s : State) :
    (recordFault f s).shift = s.shift := rfl
@[simp] theorem recordFault_ptrWidth (f : RecordedFault) (s : State) :
    (recordFault f s).ptrWidth = s.ptrWidth := rfl
@[simp] theorem recordFault_sink (f : RecordedFault) (s : State) :
    (recordFault f s).sink = s.sink := rfl
@[simp] theorem recordFault_handed (f : RecordedFault) (s : State) :
    (recordFault f s).handed = s.handed := rfl
@[simp] theorem recordFault_sinkAnswers (f : RecordedFault) (s : State) :
    (recordFault f s).sinkAnswers = s.sinkAnswers := rfl
@[simp] theorem recordFault_sourceAnswers (f : RecordedFault) (s : State) :
    (recordFault f s).sourceAnswers = s.sourceAnswers := rfl
@[simp] theorem recordFault_schedule (f : RecordedFault) (s : State) :
    (recordFault f s).schedule = s.schedule := rfl
@[simp] theorem recordFault_readData (f : RecordedFault) (s : State) :
    (recordFault f s).readData = s.readData := rfl
@[simp] theorem recordFault_draws (f : RecordedFault) (s : State) :
    (recordFault f s).draws = s.draws + 1 := rfl
@[simp] theorem recordFault_faults (f : RecordedFault) (s : State) :
    (recordFault f s).faults = s.faults ++ [f] := rfl

/-! ### complete -/

@[simp] theorem complete_status (e : ErrCode) (s : State) :
    (complete e s).status = { state := .done, err := e, rvalid := false } := rfl
@[simp] theorem complete_count (e : ErrCode) (s : State) :
    (complete e s).count = s.count := rfl
@[simp] theorem complete_lastb (e : ErrCode) (s : State) :
    (complete e s).lastb = s.lastb := rfl
@[simp] theorem complete_operand (e : ErrCode) (s : State) :
    (complete e s).operand = s.operand := rfl
@[simp] theorem complete_operandWritten (e : ErrCode) (s : State) :
    (complete e s).operandWritten = s.operandWritten := rfl
@[simp] theorem complete_result (e : ErrCode) (s : State) :
    (complete e s).result = s.result := rfl
@[simp] theorem complete_opk (e : ErrCode) (s : State) :
    (complete e s).opk = s.opk := rfl
@[simp] theorem complete_sgn (e : ErrCode) (s : State) :
    (complete e s).sgn = s.sgn := rfl
@[simp] theorem complete_wid (e : ErrCode) (s : State) :
    (complete e s).wid = s.wid := rfl
@[simp] theorem complete_acc (e : ErrCode) (s : State) :
    (complete e s).acc = s.acc := rfl
@[simp] theorem complete_shift (e : ErrCode) (s : State) :
    (complete e s).shift = s.shift := rfl
@[simp] theorem complete_ptrWidth (e : ErrCode) (s : State) :
    (complete e s).ptrWidth = s.ptrWidth := rfl
@[simp] theorem complete_sink (e : ErrCode) (s : State) :
    (complete e s).sink = s.sink := rfl
@[simp] theorem complete_handed (e : ErrCode) (s : State) :
    (complete e s).handed = s.handed := rfl
@[simp] theorem complete_sinkAnswers (e : ErrCode) (s : State) :
    (complete e s).sinkAnswers = s.sinkAnswers := rfl
@[simp] theorem complete_sourceAnswers (e : ErrCode) (s : State) :
    (complete e s).sourceAnswers = s.sourceAnswers := rfl
@[simp] theorem complete_schedule (e : ErrCode) (s : State) :
    (complete e s).schedule = s.schedule := rfl
@[simp] theorem complete_readData (e : ErrCode) (s : State) :
    (complete e s).readData = s.readData := rfl
@[simp] theorem complete_draws (e : ErrCode) (s : State) :
    (complete e s).draws = s.draws := rfl
@[simp] theorem complete_faults (e : ErrCode) (s : State) :
    (complete e s).faults = s.faults := rfl

/-! ### finishEnc -/

@[simp] theorem finishEnc_status (s : State) :
    (finishEnc s).status = { state := .done, err := .ok, rvalid := false } := rfl
@[simp] theorem finishEnc_count (s : State) :
    (finishEnc s).count = s.count := rfl
@[simp] theorem finishEnc_lastb (s : State) :
    (finishEnc s).lastb = s.lastb := rfl
@[simp] theorem finishEnc_operand (s : State) :
    (finishEnc s).operand = s.operand := rfl
@[simp] theorem finishEnc_operandWritten (s : State) :
    (finishEnc s).operandWritten = s.operandWritten := rfl
@[simp] theorem finishEnc_result (s : State) :
    (finishEnc s).result = s.result := rfl
@[simp] theorem finishEnc_opk (s : State) :
    (finishEnc s).opk = s.opk := rfl
@[simp] theorem finishEnc_sgn (s : State) :
    (finishEnc s).sgn = s.sgn := rfl
@[simp] theorem finishEnc_wid (s : State) :
    (finishEnc s).wid = s.wid := rfl
@[simp] theorem finishEnc_acc (s : State) :
    (finishEnc s).acc = s.acc := rfl
@[simp] theorem finishEnc_shift (s : State) :
    (finishEnc s).shift = s.shift := rfl
@[simp] theorem finishEnc_ptrWidth (s : State) :
    (finishEnc s).ptrWidth = s.ptrWidth := rfl
@[simp] theorem finishEnc_sink (s : State) :
    (finishEnc s).sink = s.sink := rfl
@[simp] theorem finishEnc_handed (s : State) :
    (finishEnc s).handed = s.handed := rfl
@[simp] theorem finishEnc_sinkAnswers (s : State) :
    (finishEnc s).sinkAnswers = s.sinkAnswers := rfl
@[simp] theorem finishEnc_sourceAnswers (s : State) :
    (finishEnc s).sourceAnswers = s.sourceAnswers := rfl
@[simp] theorem finishEnc_schedule (s : State) :
    (finishEnc s).schedule = s.schedule := rfl
@[simp] theorem finishEnc_readData (s : State) :
    (finishEnc s).readData = s.readData := rfl
@[simp] theorem finishEnc_draws (s : State) :
    (finishEnc s).draws = s.draws := rfl
@[simp] theorem finishEnc_faults (s : State) :
    (finishEnc s).faults = s.faults := rfl

/-! ### finishDec -/

@[simp] theorem finishDec_status (v : Value) (s : State) :
    (finishDec v s).status = { state := .done, err := .ok, rvalid := true } := rfl
@[simp] theorem finishDec_count (v : Value) (s : State) :
    (finishDec v s).count = s.count := rfl
@[simp] theorem finishDec_lastb (v : Value) (s : State) :
    (finishDec v s).lastb = s.lastb := rfl
@[simp] theorem finishDec_operand (v : Value) (s : State) :
    (finishDec v s).operand = s.operand := rfl
@[simp] theorem finishDec_operandWritten (v : Value) (s : State) :
    (finishDec v s).operandWritten = s.operandWritten := rfl
@[simp] theorem finishDec_result (v : Value) (s : State) :
    (finishDec v s).result = v := rfl
@[simp] theorem finishDec_opk (v : Value) (s : State) :
    (finishDec v s).opk = s.opk := rfl
@[simp] theorem finishDec_sgn (v : Value) (s : State) :
    (finishDec v s).sgn = s.sgn := rfl
@[simp] theorem finishDec_wid (v : Value) (s : State) :
    (finishDec v s).wid = s.wid := rfl
@[simp] theorem finishDec_acc (v : Value) (s : State) :
    (finishDec v s).acc = s.acc := rfl
@[simp] theorem finishDec_shift (v : Value) (s : State) :
    (finishDec v s).shift = s.shift := rfl
@[simp] theorem finishDec_ptrWidth (v : Value) (s : State) :
    (finishDec v s).ptrWidth = s.ptrWidth := rfl
@[simp] theorem finishDec_sink (v : Value) (s : State) :
    (finishDec v s).sink = s.sink := rfl
@[simp] theorem finishDec_handed (v : Value) (s : State) :
    (finishDec v s).handed = s.handed := rfl
@[simp] theorem finishDec_sinkAnswers (v : Value) (s : State) :
    (finishDec v s).sinkAnswers = s.sinkAnswers := rfl
@[simp] theorem finishDec_sourceAnswers (v : Value) (s : State) :
    (finishDec v s).sourceAnswers = s.sourceAnswers := rfl
@[simp] theorem finishDec_schedule (v : Value) (s : State) :
    (finishDec v s).schedule = s.schedule := rfl
@[simp] theorem finishDec_readData (v : Value) (s : State) :
    (finishDec v s).readData = s.readData := rfl
@[simp] theorem finishDec_draws (v : Value) (s : State) :
    (finishDec v s).draws = s.draws := rfl
@[simp] theorem finishDec_faults (v : Value) (s : State) :
    (finishDec v s).faults = s.faults := rfl

/-! ### raiseIoError -/

@[simp] theorem raiseIoError_status (s : State) :
    (raiseIoError s).status = { state := .done, err := .ioError, rvalid := false } := rfl
@[simp] theorem raiseIoError_count (s : State) :
    (raiseIoError s).count = s.count := rfl
@[simp] theorem raiseIoError_lastb (s : State) :
    (raiseIoError s).lastb = s.lastb := rfl
@[simp] theorem raiseIoError_operand (s : State) :
    (raiseIoError s).operand = s.operand := rfl
@[simp] theorem raiseIoError_operandWritten (s : State) :
    (raiseIoError s).operandWritten = s.operandWritten := rfl
@[simp] theorem raiseIoError_result (s : State) :
    (raiseIoError s).result = s.result := rfl
@[simp] theorem raiseIoError_opk (s : State) :
    (raiseIoError s).opk = s.opk := rfl
@[simp] theorem raiseIoError_sgn (s : State) :
    (raiseIoError s).sgn = s.sgn := rfl
@[simp] theorem raiseIoError_wid (s : State) :
    (raiseIoError s).wid = s.wid := rfl
@[simp] theorem raiseIoError_acc (s : State) :
    (raiseIoError s).acc = s.acc := rfl
@[simp] theorem raiseIoError_shift (s : State) :
    (raiseIoError s).shift = s.shift := rfl
@[simp] theorem raiseIoError_ptrWidth (s : State) :
    (raiseIoError s).ptrWidth = s.ptrWidth := rfl
@[simp] theorem raiseIoError_sink (s : State) :
    (raiseIoError s).sink = s.sink := rfl
@[simp] theorem raiseIoError_handed (s : State) :
    (raiseIoError s).handed = s.handed := rfl
@[simp] theorem raiseIoError_sinkAnswers (s : State) :
    (raiseIoError s).sinkAnswers = s.sinkAnswers := rfl
@[simp] theorem raiseIoError_sourceAnswers (s : State) :
    (raiseIoError s).sourceAnswers = s.sourceAnswers := rfl
@[simp] theorem raiseIoError_schedule (s : State) :
    (raiseIoError s).schedule = s.schedule := rfl
@[simp] theorem raiseIoError_readData (s : State) :
    (raiseIoError s).readData = s.readData := rfl
@[simp] theorem raiseIoError_draws (s : State) :
    (raiseIoError s).draws = s.draws := rfl
@[simp] theorem raiseIoError_faults (s : State) :
    (raiseIoError s).faults = s.faults := rfl

/-! ### raiseOverflow -/

@[simp] theorem raiseOverflow_status (s : State) :
    (raiseOverflow s).status = { state := .done, err := .overflow, rvalid := false } := rfl
@[simp] theorem raiseOverflow_count (s : State) :
    (raiseOverflow s).count = s.count := rfl
@[simp] theorem raiseOverflow_lastb (s : State) :
    (raiseOverflow s).lastb = s.lastb := rfl
@[simp] theorem raiseOverflow_operand (s : State) :
    (raiseOverflow s).operand = s.operand := rfl
@[simp] theorem raiseOverflow_operandWritten (s : State) :
    (raiseOverflow s).operandWritten = s.operandWritten := rfl
@[simp] theorem raiseOverflow_result (s : State) :
    (raiseOverflow s).result = s.result := rfl
@[simp] theorem raiseOverflow_opk (s : State) :
    (raiseOverflow s).opk = s.opk := rfl
@[simp] theorem raiseOverflow_sgn (s : State) :
    (raiseOverflow s).sgn = s.sgn := rfl
@[simp] theorem raiseOverflow_wid (s : State) :
    (raiseOverflow s).wid = s.wid := rfl
@[simp] theorem raiseOverflow_acc (s : State) :
    (raiseOverflow s).acc = s.acc := rfl
@[simp] theorem raiseOverflow_shift (s : State) :
    (raiseOverflow s).shift = s.shift := rfl
@[simp] theorem raiseOverflow_ptrWidth (s : State) :
    (raiseOverflow s).ptrWidth = s.ptrWidth := rfl
@[simp] theorem raiseOverflow_sink (s : State) :
    (raiseOverflow s).sink = s.sink := rfl
@[simp] theorem raiseOverflow_handed (s : State) :
    (raiseOverflow s).handed = s.handed := rfl
@[simp] theorem raiseOverflow_sinkAnswers (s : State) :
    (raiseOverflow s).sinkAnswers = s.sinkAnswers := rfl
@[simp] theorem raiseOverflow_sourceAnswers (s : State) :
    (raiseOverflow s).sourceAnswers = s.sourceAnswers := rfl
@[simp] theorem raiseOverflow_schedule (s : State) :
    (raiseOverflow s).schedule = s.schedule := rfl
@[simp] theorem raiseOverflow_readData (s : State) :
    (raiseOverflow s).readData = s.readData := rfl
@[simp] theorem raiseOverflow_draws (s : State) :
    (raiseOverflow s).draws = s.draws := rfl
@[simp] theorem raiseOverflow_faults (s : State) :
    (raiseOverflow s).faults = s.faults := rfl

/-! ### raiseIllegalCmd -/

@[simp] theorem raiseIllegalCmd_status (s : State) :
    (raiseIllegalCmd s).status = { state := .done, err := .illegalCmd, rvalid := false } := rfl
@[simp] theorem raiseIllegalCmd_count (s : State) :
    (raiseIllegalCmd s).count = 0 := rfl
@[simp] theorem raiseIllegalCmd_lastb (s : State) :
    (raiseIllegalCmd s).lastb = 0 := rfl
@[simp] theorem raiseIllegalCmd_operand (s : State) :
    (raiseIllegalCmd s).operand = s.operand := rfl
@[simp] theorem raiseIllegalCmd_operandWritten (s : State) :
    (raiseIllegalCmd s).operandWritten = s.operandWritten := rfl
@[simp] theorem raiseIllegalCmd_result (s : State) :
    (raiseIllegalCmd s).result = s.result := rfl
@[simp] theorem raiseIllegalCmd_opk (s : State) :
    (raiseIllegalCmd s).opk = s.opk := rfl
@[simp] theorem raiseIllegalCmd_sgn (s : State) :
    (raiseIllegalCmd s).sgn = s.sgn := rfl
@[simp] theorem raiseIllegalCmd_wid (s : State) :
    (raiseIllegalCmd s).wid = s.wid := rfl
@[simp] theorem raiseIllegalCmd_acc (s : State) :
    (raiseIllegalCmd s).acc = s.acc := rfl
@[simp] theorem raiseIllegalCmd_shift (s : State) :
    (raiseIllegalCmd s).shift = s.shift := rfl
@[simp] theorem raiseIllegalCmd_ptrWidth (s : State) :
    (raiseIllegalCmd s).ptrWidth = s.ptrWidth := rfl
@[simp] theorem raiseIllegalCmd_sink (s : State) :
    (raiseIllegalCmd s).sink = s.sink := rfl
@[simp] theorem raiseIllegalCmd_handed (s : State) :
    (raiseIllegalCmd s).handed = s.handed := rfl
@[simp] theorem raiseIllegalCmd_sinkAnswers (s : State) :
    (raiseIllegalCmd s).sinkAnswers = s.sinkAnswers := rfl
@[simp] theorem raiseIllegalCmd_sourceAnswers (s : State) :
    (raiseIllegalCmd s).sourceAnswers = s.sourceAnswers := rfl
@[simp] theorem raiseIllegalCmd_schedule (s : State) :
    (raiseIllegalCmd s).schedule = s.schedule := rfl
@[simp] theorem raiseIllegalCmd_readData (s : State) :
    (raiseIllegalCmd s).readData = s.readData := rfl
@[simp] theorem raiseIllegalCmd_draws (s : State) :
    (raiseIllegalCmd s).draws = s.draws := rfl
@[simp] theorem raiseIllegalCmd_faults (s : State) :
    (raiseIllegalCmd s).faults = s.faults := rfl

/-! ### latchCommand -/

@[simp] theorem latchCommand_status (u : Unit2) (g : Signedness) (w : Width) (v : Value) (s : State) :
    (latchCommand u g w v s).status = { state := .busy, err := .ok, rvalid := false } := rfl
@[simp] theorem latchCommand_count (u : Unit2) (g : Signedness) (w : Width) (v : Value) (s : State) :
    (latchCommand u g w v s).count = 0 := rfl
@[simp] theorem latchCommand_lastb (u : Unit2) (g : Signedness) (w : Width) (v : Value) (s : State) :
    (latchCommand u g w v s).lastb = 0 := rfl
@[simp] theorem latchCommand_operand (u : Unit2) (g : Signedness) (w : Width) (v : Value) (s : State) :
    (latchCommand u g w v s).operand = s.operand := rfl
@[simp] theorem latchCommand_operandWritten (u : Unit2) (g : Signedness) (w : Width) (v : Value) (s : State) :
    (latchCommand u g w v s).operandWritten = s.operandWritten := rfl
@[simp] theorem latchCommand_result (u : Unit2) (g : Signedness) (w : Width) (v : Value) (s : State) :
    (latchCommand u g w v s).result = s.result := rfl
@[simp] theorem latchCommand_opk (u : Unit2) (g : Signedness) (w : Width) (v : Value) (s : State) :
    (latchCommand u g w v s).opk = u := rfl
@[simp] theorem latchCommand_sgn (u : Unit2) (g : Signedness) (w : Width) (v : Value) (s : State) :
    (latchCommand u g w v s).sgn = g := rfl
@[simp] theorem latchCommand_wid (u : Unit2) (g : Signedness) (w : Width) (v : Value) (s : State) :
    (latchCommand u g w v s).wid = w := rfl
@[simp] theorem latchCommand_acc (u : Unit2) (g : Signedness) (w : Width) (v : Value) (s : State) :
    (latchCommand u g w v s).acc = initialAcc u w v := rfl
@[simp] theorem latchCommand_shift (u : Unit2) (g : Signedness) (w : Width) (v : Value) (s : State) :
    (latchCommand u g w v s).shift = 0 := rfl
@[simp] theorem latchCommand_ptrWidth (u : Unit2) (g : Signedness) (w : Width) (v : Value) (s : State) :
    (latchCommand u g w v s).ptrWidth = s.ptrWidth := rfl
@[simp] theorem latchCommand_sink (u : Unit2) (g : Signedness) (w : Width) (v : Value) (s : State) :
    (latchCommand u g w v s).sink = s.sink := rfl
@[simp] theorem latchCommand_handed (u : Unit2) (g : Signedness) (w : Width) (v : Value) (s : State) :
    (latchCommand u g w v s).handed = s.handed := rfl
@[simp] theorem latchCommand_sinkAnswers (u : Unit2) (g : Signedness) (w : Width) (v : Value) (s : State) :
    (latchCommand u g w v s).sinkAnswers = s.sinkAnswers := rfl
@[simp] theorem latchCommand_sourceAnswers (u : Unit2) (g : Signedness) (w : Width) (v : Value) (s : State) :
    (latchCommand u g w v s).sourceAnswers = s.sourceAnswers := rfl
@[simp] theorem latchCommand_schedule (u : Unit2) (g : Signedness) (w : Width) (v : Value) (s : State) :
    (latchCommand u g w v s).schedule = s.schedule := rfl
@[simp] theorem latchCommand_readData (u : Unit2) (g : Signedness) (w : Width) (v : Value) (s : State) :
    (latchCommand u g w v s).readData = s.readData := rfl
@[simp] theorem latchCommand_draws (u : Unit2) (g : Signedness) (w : Width) (v : Value) (s : State) :
    (latchCommand u g w v s).draws = s.draws := rfl
@[simp] theorem latchCommand_faults (u : Unit2) (g : Signedness) (w : Width) (v : Value) (s : State) :
    (latchCommand u g w v s).faults = s.faults := rfl

/-! ### countByte -/

@[simp] theorem countByte_status (b : Byte) (s : State) :
    (countByte b s).status = s.status := rfl
@[simp] theorem countByte_count (b : Byte) (s : State) :
    (countByte b s).count = s.count + 1 := rfl
@[simp] theorem countByte_lastb (b : Byte) (s : State) :
    (countByte b s).lastb = b := rfl
@[simp] theorem countByte_operand (b : Byte) (s : State) :
    (countByte b s).operand = s.operand := rfl
@[simp] theorem countByte_operandWritten (b : Byte) (s : State) :
    (countByte b s).operandWritten = s.operandWritten := rfl
@[simp] theorem countByte_result (b : Byte) (s : State) :
    (countByte b s).result = s.result := rfl
@[simp] theorem countByte_opk (b : Byte) (s : State) :
    (countByte b s).opk = s.opk := rfl
@[simp] theorem countByte_sgn (b : Byte) (s : State) :
    (countByte b s).sgn = s.sgn := rfl
@[simp] theorem countByte_wid (b : Byte) (s : State) :
    (countByte b s).wid = s.wid := rfl
@[simp] theorem countByte_acc (b : Byte) (s : State) :
    (countByte b s).acc = s.acc := rfl
@[simp] theorem countByte_shift (b : Byte) (s : State) :
    (countByte b s).shift = s.shift := rfl
@[simp] theorem countByte_ptrWidth (b : Byte) (s : State) :
    (countByte b s).ptrWidth = s.ptrWidth := rfl
@[simp] theorem countByte_sink (b : Byte) (s : State) :
    (countByte b s).sink = s.sink := rfl
@[simp] theorem countByte_handed (b : Byte) (s : State) :
    (countByte b s).handed = s.handed := rfl
@[simp] theorem countByte_sinkAnswers (b : Byte) (s : State) :
    (countByte b s).sinkAnswers = s.sinkAnswers := rfl
@[simp] theorem countByte_sourceAnswers (b : Byte) (s : State) :
    (countByte b s).sourceAnswers = s.sourceAnswers := rfl
@[simp] theorem countByte_schedule (b : Byte) (s : State) :
    (countByte b s).schedule = s.schedule := rfl
@[simp] theorem countByte_readData (b : Byte) (s : State) :
    (countByte b s).readData = s.readData := rfl
@[simp] theorem countByte_draws (b : Byte) (s : State) :
    (countByte b s).draws = s.draws := rfl
@[simp] theorem countByte_faults (b : Byte) (s : State) :
    (countByte b s).faults = s.faults := rfl

/-! ### writeOperand -/

@[simp] theorem writeOperand_status (v : Value) (s : State) :
    (writeOperand v s).status = s.status := rfl
@[simp] theorem writeOperand_count (v : Value) (s : State) :
    (writeOperand v s).count = s.count := rfl
@[simp] theorem writeOperand_lastb (v : Value) (s : State) :
    (writeOperand v s).lastb = s.lastb := rfl
@[simp] theorem writeOperand_operand (v : Value) (s : State) :
    (writeOperand v s).operand = v := rfl
@[simp] theorem writeOperand_operandWritten (v : Value) (s : State) :
    (writeOperand v s).operandWritten = true := rfl
@[simp] theorem writeOperand_result (v : Value) (s : State) :
    (writeOperand v s).result = s.result := rfl
@[simp] theorem writeOperand_opk (v : Value) (s : State) :
    (writeOperand v s).opk = s.opk := rfl
@[simp] theorem writeOperand_sgn (v : Value) (s : State) :
    (writeOperand v s).sgn = s.sgn := rfl
@[simp] theorem writeOperand_wid (v : Value) (s : State) :
    (writeOperand v s).wid = s.wid := rfl
@[simp] theorem writeOperand_acc (v : Value) (s : State) :
    (writeOperand v s).acc = s.acc := rfl
@[simp] theorem writeOperand_shift (v : Value) (s : State) :
    (writeOperand v s).shift = s.shift := rfl
@[simp] theorem writeOperand_ptrWidth (v : Value) (s : State) :
    (writeOperand v s).ptrWidth = s.ptrWidth := rfl
@[simp] theorem writeOperand_sink (v : Value) (s : State) :
    (writeOperand v s).sink = s.sink := rfl
@[simp] theorem writeOperand_handed (v : Value) (s : State) :
    (writeOperand v s).handed = s.handed := rfl
@[simp] theorem writeOperand_sinkAnswers (v : Value) (s : State) :
    (writeOperand v s).sinkAnswers = s.sinkAnswers := rfl
@[simp] theorem writeOperand_sourceAnswers (v : Value) (s : State) :
    (writeOperand v s).sourceAnswers = s.sourceAnswers := rfl
@[simp] theorem writeOperand_schedule (v : Value) (s : State) :
    (writeOperand v s).schedule = s.schedule := rfl
@[simp] theorem writeOperand_readData (v : Value) (s : State) :
    (writeOperand v s).readData = s.readData := rfl
@[simp] theorem writeOperand_draws (v : Value) (s : State) :
    (writeOperand v s).draws = s.draws := rfl
@[simp] theorem writeOperand_faults (v : Value) (s : State) :
    (writeOperand v s).faults = s.faults := rfl

/-! ### hostWait -/

@[simp] theorem hostWait_status (s : State) :
    (hostWait s).status = s.status := rfl
@[simp] theorem hostWait_count (s : State) :
    (hostWait s).count = s.count := rfl
@[simp] theorem hostWait_lastb (s : State) :
    (hostWait s).lastb = s.lastb := rfl
@[simp] theorem hostWait_operand (s : State) :
    (hostWait s).operand = s.operand := rfl
@[simp] theorem hostWait_operandWritten (s : State) :
    (hostWait s).operandWritten = s.operandWritten := rfl
@[simp] theorem hostWait_result (s : State) :
    (hostWait s).result = s.result := rfl
@[simp] theorem hostWait_opk (s : State) :
    (hostWait s).opk = s.opk := rfl
@[simp] theorem hostWait_sgn (s : State) :
    (hostWait s).sgn = s.sgn := rfl
@[simp] theorem hostWait_wid (s : State) :
    (hostWait s).wid = s.wid := rfl
@[simp] theorem hostWait_acc (s : State) :
    (hostWait s).acc = s.acc := rfl
@[simp] theorem hostWait_shift (s : State) :
    (hostWait s).shift = s.shift := rfl
@[simp] theorem hostWait_ptrWidth (s : State) :
    (hostWait s).ptrWidth = s.ptrWidth := rfl
@[simp] theorem hostWait_sink (s : State) :
    (hostWait s).sink = s.sink := rfl
@[simp] theorem hostWait_handed (s : State) :
    (hostWait s).handed = s.handed := rfl
@[simp] theorem hostWait_sinkAnswers (s : State) :
    (hostWait s).sinkAnswers = s.sinkAnswers := rfl
@[simp] theorem hostWait_sourceAnswers (s : State) :
    (hostWait s).sourceAnswers = s.sourceAnswers := rfl
@[simp] theorem hostWait_schedule (s : State) :
    (hostWait s).schedule = if s.busy then .codec :: .host .wait :: s.schedule else s.schedule := rfl
@[simp] theorem hostWait_readData (s : State) :
    (hostWait s).readData = s.status.word.setWidth 128 := rfl
@[simp] theorem hostWait_draws (s : State) :
    (hostWait s).draws = s.draws := rfl
@[simp] theorem hostWait_faults (s : State) :
    (hostWait s).faults = s.faults := rfl

/-! ### resetBlock -/

@[simp] theorem resetBlock_status (s : State) :
    (resetBlock s).status = { state := .idle, err := .ok, rvalid := false } := rfl
@[simp] theorem resetBlock_count (s : State) :
    (resetBlock s).count = 0 := rfl
@[simp] theorem resetBlock_lastb (s : State) :
    (resetBlock s).lastb = 0 := rfl
@[simp] theorem resetBlock_operand (s : State) :
    (resetBlock s).operand = State.reset.operand := rfl
@[simp] theorem resetBlock_operandWritten (s : State) :
    (resetBlock s).operandWritten = false := rfl
@[simp] theorem resetBlock_result (s : State) :
    (resetBlock s).result = State.reset.result := rfl
@[simp] theorem resetBlock_opk (s : State) :
    (resetBlock s).opk = State.reset.opk := rfl
@[simp] theorem resetBlock_sgn (s : State) :
    (resetBlock s).sgn = State.reset.sgn := rfl
@[simp] theorem resetBlock_wid (s : State) :
    (resetBlock s).wid = State.reset.wid := rfl
@[simp] theorem resetBlock_acc (s : State) :
    (resetBlock s).acc = State.reset.acc := rfl
@[simp] theorem resetBlock_shift (s : State) :
    (resetBlock s).shift = State.reset.shift := rfl
@[simp] theorem resetBlock_ptrWidth (s : State) :
    (resetBlock s).ptrWidth = s.ptrWidth := rfl
@[simp] theorem resetBlock_sink (s : State) :
    (resetBlock s).sink = if s.uses .enc then Config.sinkContents s.draws else s.sink := rfl
@[simp] theorem resetBlock_handed (s : State) :
    (resetBlock s).handed = s.handed := rfl
@[simp] theorem resetBlock_sinkAnswers (s : State) :
    (resetBlock s).sinkAnswers = s.sinkAnswers := rfl
@[simp] theorem resetBlock_sourceAnswers (s : State) :
    (resetBlock s).sourceAnswers = s.sourceAnswers := rfl
@[simp] theorem resetBlock_schedule (s : State) :
    (resetBlock s).schedule = s.schedule := rfl
@[simp] theorem resetBlock_readData (s : State) :
    (resetBlock s).readData = s.readData := rfl
@[simp] theorem resetBlock_draws (s : State) :
    (resetBlock s).draws = if s.uses .enc then s.draws + 1 else s.draws := rfl
@[simp] theorem resetBlock_faults (s : State) :
    (resetBlock s).faults = s.faults := rfl

/-! ### mergeGroup -/

@[simp] theorem mergeGroup_status (p : BitVec 7) (s : State) :
    (mergeGroup p s).status = s.status := rfl
@[simp] theorem mergeGroup_count (p : BitVec 7) (s : State) :
    (mergeGroup p s).count = s.count := rfl
@[simp] theorem mergeGroup_lastb (p : BitVec 7) (s : State) :
    (mergeGroup p s).lastb = s.lastb := rfl
@[simp] theorem mergeGroup_operand (p : BitVec 7) (s : State) :
    (mergeGroup p s).operand = s.operand := rfl
@[simp] theorem mergeGroup_operandWritten (p : BitVec 7) (s : State) :
    (mergeGroup p s).operandWritten = s.operandWritten := rfl
@[simp] theorem mergeGroup_result (p : BitVec 7) (s : State) :
    (mergeGroup p s).result = s.result := rfl
@[simp] theorem mergeGroup_opk (p : BitVec 7) (s : State) :
    (mergeGroup p s).opk = s.opk := rfl
@[simp] theorem mergeGroup_sgn (p : BitVec 7) (s : State) :
    (mergeGroup p s).sgn = s.sgn := rfl
@[simp] theorem mergeGroup_wid (p : BitVec 7) (s : State) :
    (mergeGroup p s).wid = s.wid := rfl
@[simp] theorem mergeGroup_acc (p : BitVec 7) (s : State) :
    (mergeGroup p s).acc = accOf (mergePayload s.work p s.shift.toNat) := rfl
@[simp] theorem mergeGroup_shift (p : BitVec 7) (s : State) :
    (mergeGroup p s).shift = s.shift + 7 := rfl
@[simp] theorem mergeGroup_ptrWidth (p : BitVec 7) (s : State) :
    (mergeGroup p s).ptrWidth = s.ptrWidth := rfl
@[simp] theorem mergeGroup_sink (p : BitVec 7) (s : State) :
    (mergeGroup p s).sink = s.sink := rfl
@[simp] theorem mergeGroup_handed (p : BitVec 7) (s : State) :
    (mergeGroup p s).handed = s.handed := rfl
@[simp] theorem mergeGroup_sinkAnswers (p : BitVec 7) (s : State) :
    (mergeGroup p s).sinkAnswers = s.sinkAnswers := rfl
@[simp] theorem mergeGroup_sourceAnswers (p : BitVec 7) (s : State) :
    (mergeGroup p s).sourceAnswers = s.sourceAnswers := rfl
@[simp] theorem mergeGroup_schedule (p : BitVec 7) (s : State) :
    (mergeGroup p s).schedule = s.schedule := rfl
@[simp] theorem mergeGroup_readData (p : BitVec 7) (s : State) :
    (mergeGroup p s).readData = s.readData := rfl
@[simp] theorem mergeGroup_draws (p : BitVec 7) (s : State) :
    (mergeGroup p s).draws = s.draws := rfl
@[simp] theorem mergeGroup_faults (p : BitVec 7) (s : State) :
    (mergeGroup p s).faults = s.faults := rfl

/-! ### placeCommand -/

@[simp] theorem placeCommand_status (c : Byte) (s : State) :
    (placeCommand c s).status = s.status := rfl
@[simp] theorem placeCommand_count (c : Byte) (s : State) :
    (placeCommand c s).count = s.count := rfl
@[simp] theorem placeCommand_lastb (c : Byte) (s : State) :
    (placeCommand c s).lastb = s.lastb := rfl
@[simp] theorem placeCommand_operand (c : Byte) (s : State) :
    (placeCommand c s).operand = s.operand := rfl
@[simp] theorem placeCommand_operandWritten (c : Byte) (s : State) :
    (placeCommand c s).operandWritten = s.operandWritten := rfl
@[simp] theorem placeCommand_result (c : Byte) (s : State) :
    (placeCommand c s).result = s.result := rfl
@[simp] theorem placeCommand_opk (c : Byte) (s : State) :
    (placeCommand c s).opk = s.opk := rfl
@[simp] theorem placeCommand_sgn (c : Byte) (s : State) :
    (placeCommand c s).sgn = s.sgn := rfl
@[simp] theorem placeCommand_wid (c : Byte) (s : State) :
    (placeCommand c s).wid = s.wid := rfl
@[simp] theorem placeCommand_acc (c : Byte) (s : State) :
    (placeCommand c s).acc = s.acc := rfl
@[simp] theorem placeCommand_shift (c : Byte) (s : State) :
    (placeCommand c s).shift = s.shift := rfl
@[simp] theorem placeCommand_ptrWidth (c : Byte) (s : State) :
    (placeCommand c s).ptrWidth = s.ptrWidth := rfl
@[simp] theorem placeCommand_sink (c : Byte) (s : State) :
    (placeCommand c s).sink = s.sink := rfl
@[simp] theorem placeCommand_handed (c : Byte) (s : State) :
    (placeCommand c s).handed = s.handed := rfl
@[simp] theorem placeCommand_sinkAnswers (c : Byte) (s : State) :
    (placeCommand c s).sinkAnswers = s.sinkAnswers := rfl
@[simp] theorem placeCommand_sourceAnswers (c : Byte) (s : State) :
    (placeCommand c s).sourceAnswers = s.sourceAnswers := rfl
@[simp] theorem placeCommand_schedule (c : Byte) (s : State) :
    (placeCommand c s).schedule = requestTurn c :: s.schedule := rfl
@[simp] theorem placeCommand_readData (c : Byte) (s : State) :
    (placeCommand c s).readData = s.readData := rfl
@[simp] theorem placeCommand_draws (c : Byte) (s : State) :
    (placeCommand c s).draws = s.draws := rfl
@[simp] theorem placeCommand_faults (c : Byte) (s : State) :
    (placeCommand c s).faults = s.faults := rfl

/-! ### storeWork -/

@[simp] theorem storeWork_status (next : Value) (s : State) :
    (storeWork next s).status = s.status := rfl
@[simp] theorem storeWork_count (next : Value) (s : State) :
    (storeWork next s).count = s.count := rfl
@[simp] theorem storeWork_lastb (next : Value) (s : State) :
    (storeWork next s).lastb = s.lastb := rfl
@[simp] theorem storeWork_operand (next : Value) (s : State) :
    (storeWork next s).operand = s.operand := rfl
@[simp] theorem storeWork_operandWritten (next : Value) (s : State) :
    (storeWork next s).operandWritten = s.operandWritten := rfl
@[simp] theorem storeWork_result (next : Value) (s : State) :
    (storeWork next s).result = s.result := rfl
@[simp] theorem storeWork_opk (next : Value) (s : State) :
    (storeWork next s).opk = s.opk := rfl
@[simp] theorem storeWork_sgn (next : Value) (s : State) :
    (storeWork next s).sgn = s.sgn := rfl
@[simp] theorem storeWork_wid (next : Value) (s : State) :
    (storeWork next s).wid = s.wid := rfl
@[simp] theorem storeWork_acc (next : Value) (s : State) :
    (storeWork next s).acc = next := rfl
@[simp] theorem storeWork_shift (next : Value) (s : State) :
    (storeWork next s).shift = s.shift := rfl
@[simp] theorem storeWork_ptrWidth (next : Value) (s : State) :
    (storeWork next s).ptrWidth = s.ptrWidth := rfl
@[simp] theorem storeWork_sink (next : Value) (s : State) :
    (storeWork next s).sink = s.sink := rfl
@[simp] theorem storeWork_handed (next : Value) (s : State) :
    (storeWork next s).handed = s.handed := rfl
@[simp] theorem storeWork_sinkAnswers (next : Value) (s : State) :
    (storeWork next s).sinkAnswers = s.sinkAnswers := rfl
@[simp] theorem storeWork_sourceAnswers (next : Value) (s : State) :
    (storeWork next s).sourceAnswers = s.sourceAnswers := rfl
@[simp] theorem storeWork_schedule (next : Value) (s : State) :
    (storeWork next s).schedule = s.schedule := rfl
@[simp] theorem storeWork_readData (next : Value) (s : State) :
    (storeWork next s).readData = s.readData := rfl
@[simp] theorem storeWork_draws (next : Value) (s : State) :
    (storeWork next s).draws = s.draws := rfl
@[simp] theorem storeWork_faults (next : Value) (s : State) :
    (storeWork next s).faults = s.faults := rfl

end Sys2Proof.Machine
end

