-- ==== Sys2Proof/Laws/Ops.lean ====
section
/-! SUPPORT. One lemma per shared operation that says everything it can do. -/

namespace Sys2Proof.Machine

/-! ### Busy -/

theorem busy_iff (s : State) : s.busy = true ↔ s.status.state = .busy := by
  simp [State.busy]

@[simp] theorem busy_of_busy {s : State} (h : s.status.state = .busy) : s.busy = true :=
  (busy_iff s).2 h

@[simp] theorem busy_of_not {s : State} (h : s.status.state ≠ .busy) : s.busy = false := by
  simp [State.busy, h]

theorem uses_iff (s : State) (u : Unit2) : s.uses u = true ↔ s.status.state = .busy ∧ s.opk = u := by
  simp [State.uses, State.busy]

/-! ### Acceptance -/

/-- A running command drops the request. -/
theorem acceptCommand_busy {s : State} (u : Unit2) (g : Signedness) (w : Width)
    (h : s.status.state = .busy) : acceptCommand u g w s = .next s := by
  simp [acceptCommand, h]

/-- An ENC command before the first write of OPERAND takes a free value and records the fault. -/
theorem acceptCommand_unwritten {s : State} (g : Signedness) (w : Width)
    (h : s.status.state ≠ .busy) (ho : s.operandWritten = false) :
    acceptCommand .enc g w s =
      .next (recordFault .encodedUnwritten (latchCommand .enc g w (unspecifiedValue s) s)) := by
  simp [acceptCommand, lacksOperand, h, ho]

/-- Otherwise the command is latched. -/
theorem acceptCommand_latches {s : State} (u : Unit2) (g : Signedness) (w : Width)
    (h : s.status.state ≠ .busy) (ho : u = .enc → s.operandWritten = true) :
    acceptCommand u g w s = .next (latchCommand u g w s.operand s) := by
  cases u <;> simp_all [acceptCommand, lacksOperand]

/-- All the answers of an acceptance step. -/
theorem acceptCommand_cases (u : Unit2) (g : Signedness) (w : Width) (s : State) :
    (s.status.state = .busy ∧ acceptCommand u g w s = .next s) ∨
    (s.status.state ≠ .busy ∧ u = .enc ∧ s.operandWritten = false ∧ acceptCommand u g w s =
      .next (recordFault .encodedUnwritten (latchCommand u g w (unspecifiedValue s) s))) ∨
    (s.status.state ≠ .busy ∧ (u = .enc → s.operandWritten = true) ∧
      acceptCommand u g w s = .next (latchCommand u g w s.operand s)) := by
  by_cases hb : s.status.state = .busy
  · exact .inl ⟨hb, acceptCommand_busy u g w hb⟩
  · by_cases ho : u = .enc ∧ s.operandWritten = false
    · obtain ⟨rfl, hw⟩ := ho
      exact .inr (.inl ⟨hb, rfl, hw, acceptCommand_unwritten g w hb hw⟩)
    · have ho' : u = .enc → s.operandWritten = true := by simpa using ho
      exact .inr (.inr ⟨hb, ho', acceptCommand_latches u g w hb ho'⟩)

/-- The width a command's acceptance latches (R62). -/
def commandWidth (i : Instr) (s : State) : Width :=
  match i with
  | .encU8 | .decU8 | .encI8 | .decI8 => .w8
  | .encU16 | .decU16 | .encI16 | .decI16 => .w16
  | .encU32 | .decU32 | .encI32 | .decI32 => .w32
  | .encU64 | .decU64 | .encI64 | .decI64 => .w64
  | .encU128 | .decU128 | .encI128 | .decI128 => .w128
  | .encUPtr | .decUPtr | .encIPtr | .decIPtr => ptrWidthOf s.ptrWidth

/-- Every command is an acceptance step of its own unit, signedness and width. -/
theorem exec_is_acceptance (i : Instr) :
    ∃ u g, ∀ s, exec i s = acceptCommand u g (commandWidth i s) s := by
  cases i
  all_goals exact ⟨_, _, fun _ => rfl⟩

/-! ### Stream primitives -/

theorem sinkWrite_none {b : Byte} {s : State} : sinkWrite b s = none ↔ s.sinkAnswers = [] := by
  unfold sinkWrite
  split <;> simp_all

theorem sinkWrite_some {b : Byte} {s t : State} {a : SinkAnswer} (h : sinkWrite b s = some (a, t)) :
    (∃ rest, a = .ack ∧ s.sinkAnswers = .ack :: rest ∧
      t = { s with sinkAnswers := rest, sink := s.sink ++ [b], handed := s.handed ++ [b] }) ∨
    (∃ rest, a = .err ∧ s.sinkAnswers = .err :: rest ∧
      t = { s with
        sinkAnswers := rest, sink := Config.sinkContents s.draws, draws := s.draws + 1 }) := by
  unfold sinkWrite at h
  split at h
  · cases h
  · next rest hs => cases h; exact .inl ⟨rest, rfl, hs, rfl⟩
  · next rest hs => cases h; exact .inr ⟨rest, rfl, hs, rfl⟩

theorem sourceRead_none {s : State} : sourceRead s = none ↔ s.sourceAnswers = [] := by
  unfold sourceRead
  split <;> simp_all

theorem sourceRead_some {s t : State} {a : SourceAnswer} (h : sourceRead s = some (a, t)) :
    ∃ rest, s.sourceAnswers = a :: rest ∧ t = { s with sourceAnswers := rest } := by
  unfold sourceRead at h
  split at h
  · cases h
  · next rest hs => cases h; exact ⟨rest, hs, rfl⟩

/-! ### The encoder's step -/

/-- What an ENC step does with the sink's next answer. -/
theorem encStep_none {s : State} (h : s.sinkAnswers = []) : encStep s = none := by
  simp [encStep, sinkWrite, h]

theorem encStep_err {s : State} {rest : List SinkAnswer} (h : s.sinkAnswers = .err :: rest) :
    encStep s = some (raiseIoError { s with
      sinkAnswers := rest, sink := Config.sinkContents s.draws, draws := s.draws + 1 }) := by
  simp [encStep, sinkWrite, h]

theorem encStep_ack_final {s : State} {rest : List SinkAnswer} (h : s.sinkAnswers = .ack :: rest)
    (hf : encIsFinal s = true) :
    encStep s = some (finishEnc (countByte (encByte s)
      { s with sinkAnswers := rest, sink := s.sink ++ [encByte s], handed := s.handed ++ [encByte s] })) := by
  simp [encStep, sinkWrite, h, encAdvance, hf]

theorem encStep_ack_more {s : State} {rest : List SinkAnswer} (h : s.sinkAnswers = .ack :: rest)
    (hf : encIsFinal s = false) :
    encStep s = some (storeWork (accOf (shiftGroup s.sgn s.work)) (countByte (encByte s)
      { s with sinkAnswers := rest, sink := s.sink ++ [encByte s], handed := s.handed ++ [encByte s] })) := by
  simp [encStep, sinkWrite, h, encAdvance, hf]

/-- All the ways an ENC step can go. -/
theorem encStep_cases {s t : State} (h : encStep s = some t) :
    (∃ rest, s.sinkAnswers = .err :: rest ∧ t = raiseIoError { s with
      sinkAnswers := rest, sink := Config.sinkContents s.draws, draws := s.draws + 1 }) ∨
    (∃ rest, s.sinkAnswers = .ack :: rest ∧ encIsFinal s = true ∧
      t = finishEnc (countByte (encByte s)
        { s with sinkAnswers := rest, sink := s.sink ++ [encByte s], handed := s.handed ++ [encByte s] })) ∨
    (∃ rest, s.sinkAnswers = .ack :: rest ∧ encIsFinal s = false ∧
      t = storeWork (accOf (shiftGroup s.sgn s.work)) (countByte (encByte s)
        { s with sinkAnswers := rest, sink := s.sink ++ [encByte s], handed := s.handed ++ [encByte s] })) := by
  match hs : s.sinkAnswers with
  | [] => simp [encStep_none hs] at h
  | .err :: rest =>
    rw [encStep_err hs] at h
    exact .inl ⟨rest, rfl, (Option.some.inj h).symm⟩
  | .ack :: rest =>
    cases hf : encIsFinal s
    · rw [encStep_ack_more hs hf] at h
      exact .inr (.inr ⟨rest, rfl, rfl, (Option.some.inj h).symm⟩)
    · rw [encStep_ack_final hs hf] at h
      exact .inr (.inl ⟨rest, rfl, rfl, (Option.some.inj h).symm⟩)

/-! ### The decoder's step -/

theorem finalize_cases (p : BitVec 7) (s : State) :
    (s.sgn = .signed ∧ exceedsSigned (widthBits s.wid) s.shift.toNat p = true ∧
      finalize p s = raiseOverflow s) ∨
    ((s.sgn = .signed → exceedsSigned (widthBits s.wid) s.shift.toNat p = false) ∧
      finalize p s = finishDec (widen s.sgn (resultPattern s.sgn s.work s.shift.toNat)) s) := by
  unfold finalize
  split
  · next h => exact .inl ⟨h.1, h.2, rfl⟩
  · next h => exact .inr ⟨fun hs => by simpa [hs] using h, rfl⟩

/-- All the things a DEC step can do with the byte it has read. -/
theorem takeByte_cases (b : Byte) (s : State) :
    (s.sgn = .unsigned ∧ exceedsUnsigned (widthBits s.wid) s.shift.toNat (payload b) = true ∧
      takeByte b s = raiseOverflow (countByte b s)) ∨
    ((s.sgn = .unsigned → exceedsUnsigned (widthBits s.wid) s.shift.toNat (payload b) = false) ∧
      continues b = true ∧ takeByte b s = mergeGroup (payload b) (countByte b s)) ∨
    ((s.sgn = .unsigned → exceedsUnsigned (widthBits s.wid) s.shift.toNat (payload b) = false) ∧
      continues b = false ∧
      takeByte b s = finalize (payload b) (mergeGroup (payload b) (countByte b s))) := by
  unfold takeByte
  split
  · next h => exact .inl ⟨h.1, h.2, rfl⟩
  · next h =>
    have hu : s.sgn = .unsigned →
        exceedsUnsigned (widthBits s.wid) s.shift.toNat (payload b) = false :=
      fun hs => by simpa [hs] using h
    cases hc : continues b
    · exact .inr (.inr ⟨hu, rfl, by simp⟩)
    · exact .inr (.inl ⟨hu, rfl, by simp⟩)

theorem decStep_guard {s : State} (h : widthBits s.wid < s.shift.toNat) :
    decStep s = some (raiseOverflow s) := by
  simp [decStep, pastWidth, h]

theorem decStep_none {s : State} (h : s.shift.toNat ≤ widthBits s.wid) (ha : s.sourceAnswers = []) :
    decStep s = none := by
  simp [decStep, pastWidth, Nat.not_lt.2 h, sourceRead, ha]

theorem decStep_err {s : State} {rest : List SourceAnswer} (h : s.shift.toNat ≤ widthBits s.wid)
    (ha : s.sourceAnswers = .err :: rest) :
    decStep s = some (raiseIoError { s with sourceAnswers := rest }) := by
  simp [decStep, pastWidth, Nat.not_lt.2 h, sourceRead, ha]

theorem decStep_byte {s : State} {b : Byte} {rest : List SourceAnswer}
    (h : s.shift.toNat ≤ widthBits s.wid) (ha : s.sourceAnswers = .byte b :: rest) :
    decStep s = some (takeByte b { s with sourceAnswers := rest }) := by
  simp [decStep, pastWidth, Nat.not_lt.2 h, sourceRead, ha]

/-- All the ways a DEC step can go. -/
theorem decStep_cases {s t : State} (h : decStep s = some t) :
    (widthBits s.wid < s.shift.toNat ∧ t = raiseOverflow s) ∨
    (s.shift.toNat ≤ widthBits s.wid ∧ ∃ rest, s.sourceAnswers = .err :: rest ∧
      t = raiseIoError { s with sourceAnswers := rest }) ∨
    (s.shift.toNat ≤ widthBits s.wid ∧ ∃ b rest, s.sourceAnswers = .byte b :: rest ∧
      t = takeByte b { s with sourceAnswers := rest }) := by
  rcases Nat.lt_or_ge (widthBits s.wid) s.shift.toNat with hg | hg
  · rw [decStep_guard hg] at h
    exact .inl ⟨hg, (Option.some.inj h).symm⟩
  · match ha : s.sourceAnswers with
    | [] => simp [decStep_none hg ha] at h
    | .err :: rest =>
      rw [decStep_err hg ha] at h
      exact .inr (.inl ⟨hg, rest, rfl, (Option.some.inj h).symm⟩)
    | .byte b :: rest =>
      rw [decStep_byte hg ha] at h
      exact .inr (.inr ⟨hg, b, rest, rfl, (Option.some.inj h).symm⟩)

/-! ### The codec's turn -/

theorem codecStep_enc {s : State} (hb : s.status.state = .busy) (ho : s.opk = .enc) :
    codecStep s = encStep s := by
  simp [codecStep, hb, ho]

theorem codecStep_dec {s : State} (hb : s.status.state = .busy) (ho : s.opk = .dec) :
    codecStep s = decStep s := by
  simp [codecStep, hb, ho]

theorem codecStep_not_busy {s : State} (hb : s.status.state ≠ .busy) : codecStep s = none := by
  simp [codecStep, hb]

theorem codecTurn_not_busy {s : State} (hb : s.status.state ≠ .busy) : codecTurn s = s := by
  simp [codecTurn, codecStep_not_busy hb]

/-- All the ways a codec step can go. -/
theorem codecStep_cases {s t : State} (h : codecStep s = some t) :
    s.status.state = .busy ∧ ((s.opk = .enc ∧ encStep s = some t) ∨ (s.opk = .dec ∧ decStep s = some t)) := by
  have hb : s.status.state = .busy := by
    by_contra hb
    simp [codecStep_not_busy hb] at h
  refine ⟨hb, ?_⟩
  cases ho : s.opk
  · exact .inl ⟨rfl, by rwa [codecStep_enc hb ho] at h⟩
  · exact .inr ⟨rfl, by rwa [codecStep_dec hb ho] at h⟩

/-- The codec's turn is a codec step, or nothing happens. -/
theorem codecTurn_cases (s : State) : codecStep s = some (codecTurn s) ∨ codecTurn s = s := by
  cases h : codecStep s
  · exact .inr (by simp [codecTurn, h])
  · exact .inl (by simp [codecTurn, h])

/-! ### Host accesses -/

theorem hostRead_cases (r : RegNum) (s : State) :
    (∃ v, readRegister r s = .ok v ∧ hostRead r s = { s with readData := v }) ∨
    ∃ f, readRegister r s = .error f ∧
      hostRead r s = recordFault f { s with readData := unspecifiedValue s } := by
  cases h : readRegister r s
  · exact .inr ⟨_, rfl, by simp [hostRead, h]⟩
  · exact .inl ⟨_, rfl, by simp [hostRead, h]⟩

theorem hostWriteData_cases (r : RegNum) (v : Value) (s : State) :
    hostWriteData r v s = writeOperand v s ∨ hostWriteData r v s = s := by
  unfold hostWriteData
  split
  · exact .inl rfl
  · exact .inr rfl

theorem rejectWord_cases (s : State) :
    (s.status.state = .busy ∧ rejectWord s = s) ∨
    (s.status.state ≠ .busy ∧ rejectWord s = raiseIllegalCmd s) := by
  by_cases hb : s.status.state = .busy
  · exact .inl ⟨hb, by simp [rejectWord, hb]⟩
  · exact .inr ⟨hb, by simp [rejectWord, hb]⟩

/-- All the next states of a command request. -/
theorem commandRequest_next {c : Byte} {s t : State} (h : commandRequest c s = .next t) :
    (s.status.state = .busy ∧ t = s) ∨
    (s.status.state ≠ .busy ∧ t = raiseIllegalCmd s ∧ ∃ e, decode c = .error e) ∨
    (s.status.state ≠ .busy ∧ ∃ i u g v, decode c = .ok i ∧
      (t = latchCommand u g (commandWidth i s) v s ∨
       t = recordFault .encodedUnwritten (latchCommand u g (commandWidth i s) v s))) := by
  unfold commandRequest at h
  split at h
  · next i hd =>
    obtain ⟨u, g, hx⟩ := exec_is_acceptance i
    rw [hx] at h
    rcases acceptCommand_cases u g (commandWidth i s) s with ⟨hb, ha⟩ | ⟨hb, _, _, ha⟩ | ⟨hb, _, ha⟩
    · rw [ha] at h; cases h; exact .inl ⟨hb, rfl⟩
    · rw [ha] at h; cases h; exact .inr (.inr ⟨hb, i, u, g, _, hd, .inr rfl⟩)
    · rw [ha] at h; cases h; exact .inr (.inr ⟨hb, i, u, g, _, hd, .inl rfl⟩)
  · next e hd =>
    cases h
    rcases rejectWord_cases s with ⟨hb, hr⟩ | ⟨hb, hr⟩
    · exact .inl ⟨hb, hr⟩
    · exact .inr (.inl ⟨hb, hr, e, hd⟩)

/-! ### A step -/

theorem step_nil {s : State} (h : s.schedule = []) : step s = .next (codecTurn s) := by
  simp [step, nextTurn, h]

theorem step_cons {s : State} {turn : Turn} {rest : List Turn} (h : s.schedule = turn :: rest) :
    step s = takeTurn turn { s with schedule := rest } := by
  simp [step, nextTurn, h]

/-- An update of the host or the environment: it reaches only what they may set, it takes no recorded fault out, and it
leaves the stream a running command uses. -/
abbrev EnvironmentUpdate (s t : State) : Prop :=
  ∃ operand written sink handed sinkAnswers sourceAnswers schedule readData draws faults,
    t = { s with
      operand := operand, operandWritten := written || s.operandWritten, sink := sink, handed := handed
      sinkAnswers := sinkAnswers, sourceAnswers := sourceAnswers, schedule := schedule
      readData := readData, draws := draws, faults := faults } ∧
    s.faults <+: faults ∧
    (sink ≠ s.sink ∨ handed ≠ s.handed ∨ sinkAnswers ≠ s.sinkAnswers → s.uses .enc = false) ∧
    (sourceAnswers ≠ s.sourceAnswers → s.uses .dec = false)

theorem hostRead_update (r : RegNum) (s : State) : EnvironmentUpdate s (hostRead r s) := by
  rcases hostRead_cases r s with ⟨v, _, h⟩ | ⟨f, _, h⟩ <;> rw [h]
  · exact ⟨s.operand, false, s.sink, s.handed, s.sinkAnswers, s.sourceAnswers, s.schedule, v, s.draws,
      s.faults, rfl, List.prefix_refl _, by simp, by simp⟩
  · exact ⟨s.operand, false, s.sink, s.handed, s.sinkAnswers, s.sourceAnswers, s.schedule,
      unspecifiedValue s, s.draws + 1, s.faults ++ [f], rfl, List.prefix_append _ _, by simp, by simp⟩

/-- All the next states of a turn: a codec turn, a command request, a reset, or an update of the host or the
environment. -/
theorem takeTurn_next {turn : Turn} {s t : State} (h : takeTurn turn s = .next t) :
    (turn = .codec ∧ t = codecTurn s) ∨
    (∃ v, turn = .host (.write 0 v) ∧ commandRequest (commandWord v) s = .next t) ∨
    (turn = .host .reset ∧ t = resetBlock s) ∨
    EnvironmentUpdate s t := by
  match turn, h with
  | .codec, h => cases h; exact .inl ⟨rfl, rfl⟩
  | .host .reset, h => cases h; exact .inr (.inr (.inl ⟨rfl, rfl⟩))
  | .host .wait, h =>
    cases h
    exact .inr (.inr (.inr ⟨s.operand, false, s.sink, s.handed, s.sinkAnswers, s.sourceAnswers, _, _,
      s.draws, s.faults, rfl, List.prefix_refl _, by simp, by simp⟩))
  | .host (.read r), h =>
    cases h
    exact .inr (.inr (.inr (hostRead_update r s)))
  | .host (.write r v), h =>
    by_cases hr : r = 0
    · subst hr
      exact .inr (.inl ⟨v, rfl, by simpa [takeTurn, hostTurn, hostWrite] using h⟩)
    · simp only [takeTurn, hostTurn, hostWrite, hr, if_false] at h
      cases h
      rcases hostWriteData_cases r v s with hw | hw <;> rw [hw]
      · exact .inr (.inr (.inr ⟨v, true, s.sink, s.handed, s.sinkAnswers, s.sourceAnswers, s.schedule,
          s.readData, s.draws, s.faults, rfl, List.prefix_refl _, by simp, by simp⟩))
      · exact .inr (.inr (.inr ⟨s.operand, false, s.sink, s.handed, s.sinkAnswers, s.sourceAnswers,
          s.schedule, s.readData, s.draws, s.faults, rfl, List.prefix_refl _, by simp, by simp⟩))
  | .host (.attachSink held answers), h =>
    simp only [takeTurn, hostTurn, attachSink] at h
    split at h
    · cases h
    · next hu =>
      cases h
      exact .inr (.inr (.inr ⟨s.operand, false, held, [], answers, s.sourceAnswers, s.schedule, s.readData,
        s.draws, s.faults, rfl, List.prefix_refl _, fun _ => by simpa using hu, by simp⟩))
  | .host (.attachSource answers), h =>
    simp only [takeTurn, hostTurn, attachSource] at h
    split at h
    · cases h
    · next hu =>
      cases h
      exact .inr (.inr (.inr ⟨s.operand, false, s.sink, s.handed, s.sinkAnswers, answers, s.schedule,
        s.readData, s.draws, s.faults, rfl, List.prefix_refl _, by simp, fun _ => by simpa using hu⟩))
  | .outsideWrite b, h =>
    simp only [takeTurn, outsideWrite] at h
    split at h
    · cases h
    · next hu =>
      cases h
      exact .inr (.inr (.inr ⟨s.operand, false, _, s.handed, s.sinkAnswers, s.sourceAnswers, s.schedule,
        s.readData, s.draws, s.faults, rfl, List.prefix_refl _, fun _ => by simpa using hu, by simp⟩))
  | .outsideRead, h =>
    simp only [takeTurn, outsideRead] at h
    split at h
    · cases h
    · next hu =>
      cases h
      exact .inr (.inr (.inr ⟨s.operand, false, s.sink, s.handed, s.sinkAnswers, _, s.schedule, s.readData,
        s.draws, s.faults, rfl, List.prefix_refl _, by simp, fun _ => by simpa using hu⟩))

/-! ### Several steps -/

@[simp] theorem steps_zero (s : State) : steps 0 s = .next s := rfl

theorem steps_succ_of_next {s t : State} (n : Nat) (h : step s = .next t) :
    steps (n + 1) s = steps n t := by
  simp [steps, h]

theorem steps_add {s t : State} {m n : Nat} (h : steps m s = .next t) :
    steps (m + n) s = steps n t := by
  induction m generalizing s with
  | zero => cases h; simp
  | succ m ih =>
    rw [Nat.add_right_comm]
    simp only [steps] at h ⊢
    split at h
    · next u hu => simpa [hu] using ih h
    · cases h
    · cases h

/-- With no turn scheduled and no command running, the machine stands still. -/
theorem steps_at_rest {s : State} (hb : s.status.state ≠ .busy) (h : s.schedule = []) (n : Nat) :
    steps n s = .next s := by
  induction n with
  | zero => rfl
  | succ n ih => rw [steps_succ_of_next n (step_nil h), codecTurn_not_busy hb, ih]

end Sys2Proof.Machine
end

