-- ==== Sys2Proof/Laws/PerInstr.lean ====
section
/-! SUPPORT. Per-instruction lemmas on the command words: the family WordFields. -/

namespace Sys2Proof.Laws.WordFields

/-- The word of the command is legal, its reserved bits are 000 (R66), and its three fields are exactly what selects the
command (R59 to R61): whatever unit, signedness and width select give the command, they are the fields of its word. -/
def Statement (i : Instr) : Prop :=
  legalWord (encode i) = true ∧ (encode i).extractLsb' 5 3 = 0 ∧
  ∀ u g ws, commandOf u g ws = i →
    opField (encode i) = u ∧ sgnField (encode i) = g ∧ wselField (encode i) = some ws

theorem encU8 : Statement .encU8 := by
  refine ⟨by decide, by decide, fun u g ws h => ?_⟩
  cases u <;> cases g <;> cases ws <;> first | exact ⟨rfl, rfl, rfl⟩ | cases h

theorem decU8 : Statement .decU8 := by
  refine ⟨by decide, by decide, fun u g ws h => ?_⟩
  cases u <;> cases g <;> cases ws <;> first | exact ⟨rfl, rfl, rfl⟩ | cases h

theorem encI8 : Statement .encI8 := by
  refine ⟨by decide, by decide, fun u g ws h => ?_⟩
  cases u <;> cases g <;> cases ws <;> first | exact ⟨rfl, rfl, rfl⟩ | cases h

theorem decI8 : Statement .decI8 := by
  refine ⟨by decide, by decide, fun u g ws h => ?_⟩
  cases u <;> cases g <;> cases ws <;> first | exact ⟨rfl, rfl, rfl⟩ | cases h

theorem encU16 : Statement .encU16 := by
  refine ⟨by decide, by decide, fun u g ws h => ?_⟩
  cases u <;> cases g <;> cases ws <;> first | exact ⟨rfl, rfl, rfl⟩ | cases h

theorem decU16 : Statement .decU16 := by
  refine ⟨by decide, by decide, fun u g ws h => ?_⟩
  cases u <;> cases g <;> cases ws <;> first | exact ⟨rfl, rfl, rfl⟩ | cases h

theorem encI16 : Statement .encI16 := by
  refine ⟨by decide, by decide, fun u g ws h => ?_⟩
  cases u <;> cases g <;> cases ws <;> first | exact ⟨rfl, rfl, rfl⟩ | cases h

theorem decI16 : Statement .decI16 := by
  refine ⟨by decide, by decide, fun u g ws h => ?_⟩
  cases u <;> cases g <;> cases ws <;> first | exact ⟨rfl, rfl, rfl⟩ | cases h

theorem encU32 : Statement .encU32 := by
  refine ⟨by decide, by decide, fun u g ws h => ?_⟩
  cases u <;> cases g <;> cases ws <;> first | exact ⟨rfl, rfl, rfl⟩ | cases h

theorem decU32 : Statement .decU32 := by
  refine ⟨by decide, by decide, fun u g ws h => ?_⟩
  cases u <;> cases g <;> cases ws <;> first | exact ⟨rfl, rfl, rfl⟩ | cases h

theorem encI32 : Statement .encI32 := by
  refine ⟨by decide, by decide, fun u g ws h => ?_⟩
  cases u <;> cases g <;> cases ws <;> first | exact ⟨rfl, rfl, rfl⟩ | cases h

theorem decI32 : Statement .decI32 := by
  refine ⟨by decide, by decide, fun u g ws h => ?_⟩
  cases u <;> cases g <;> cases ws <;> first | exact ⟨rfl, rfl, rfl⟩ | cases h

theorem encU64 : Statement .encU64 := by
  refine ⟨by decide, by decide, fun u g ws h => ?_⟩
  cases u <;> cases g <;> cases ws <;> first | exact ⟨rfl, rfl, rfl⟩ | cases h

theorem decU64 : Statement .decU64 := by
  refine ⟨by decide, by decide, fun u g ws h => ?_⟩
  cases u <;> cases g <;> cases ws <;> first | exact ⟨rfl, rfl, rfl⟩ | cases h

theorem encI64 : Statement .encI64 := by
  refine ⟨by decide, by decide, fun u g ws h => ?_⟩
  cases u <;> cases g <;> cases ws <;> first | exact ⟨rfl, rfl, rfl⟩ | cases h

theorem decI64 : Statement .decI64 := by
  refine ⟨by decide, by decide, fun u g ws h => ?_⟩
  cases u <;> cases g <;> cases ws <;> first | exact ⟨rfl, rfl, rfl⟩ | cases h

theorem encU128 : Statement .encU128 := by
  refine ⟨by decide, by decide, fun u g ws h => ?_⟩
  cases u <;> cases g <;> cases ws <;> first | exact ⟨rfl, rfl, rfl⟩ | cases h

theorem decU128 : Statement .decU128 := by
  refine ⟨by decide, by decide, fun u g ws h => ?_⟩
  cases u <;> cases g <;> cases ws <;> first | exact ⟨rfl, rfl, rfl⟩ | cases h

theorem encI128 : Statement .encI128 := by
  refine ⟨by decide, by decide, fun u g ws h => ?_⟩
  cases u <;> cases g <;> cases ws <;> first | exact ⟨rfl, rfl, rfl⟩ | cases h

theorem decI128 : Statement .decI128 := by
  refine ⟨by decide, by decide, fun u g ws h => ?_⟩
  cases u <;> cases g <;> cases ws <;> first | exact ⟨rfl, rfl, rfl⟩ | cases h

theorem encUPtr : Statement .encUPtr := by
  refine ⟨by decide, by decide, fun u g ws h => ?_⟩
  cases u <;> cases g <;> cases ws <;> first | exact ⟨rfl, rfl, rfl⟩ | cases h

theorem decUPtr : Statement .decUPtr := by
  refine ⟨by decide, by decide, fun u g ws h => ?_⟩
  cases u <;> cases g <;> cases ws <;> first | exact ⟨rfl, rfl, rfl⟩ | cases h

theorem encIPtr : Statement .encIPtr := by
  refine ⟨by decide, by decide, fun u g ws h => ?_⟩
  cases u <;> cases g <;> cases ws <;> first | exact ⟨rfl, rfl, rfl⟩ | cases h

theorem decIPtr : Statement .decIPtr := by
  refine ⟨by decide, by decide, fun u g ws h => ?_⟩
  cases u <;> cases g <;> cases ws <;> first | exact ⟨rfl, rfl, rfl⟩ | cases h

end Sys2Proof.Laws.WordFields
end

