-- ==== Sys2Proof/Laws/Wire.lean ====
section
/-! SUPPORT. The arithmetic of the widths, the group bytes, the working value and the group sequences, one small lemma
each. -/

namespace Sys2Proof.Machine

/-! ### Widths -/

theorem widthBits_ge (w : Width) : 8 ≤ widthBits w := by cases w <;> decide

theorem widthBits_le (w : Width) : widthBits w ≤ 128 := by cases w <;> decide

theorem maxGroups_pos (w : Width) : 1 ≤ maxGroups w := by cases w <;> decide

theorem maxGroups_le (w : Width) : maxGroups w ≤ 19 := by cases w <;> decide

theorem maxGroups_le_widthBits (w : Width) : maxGroups w ≤ widthBits w := by cases w <;> decide

/-- The groups before the straddling one end below the width. -/
theorem inside_of_lt {w : Width} {c : Nat} (h : c + 1 < maxGroups w) : 7 * c + 7 < widthBits w := by
  cases w <;> simp [maxGroups, widthBits] at * <;> omega

/-- A group may be read exactly when fewer than MAXG(W) have been (R96). -/
theorem readable_iff (w : Width) (c : Nat) : 7 * c ≤ widthBits w ↔ c < maxGroups w := by
  cases w <;> simp [maxGroups, widthBits] <;> omega

/-! ### Group bytes -/

theorem payload_toNat (b : Byte) : (payload b).toNat = b.toNat % 128 := by
  simp [payload, BitVec.extractLsb'_toNat]

theorem continues_iff (b : Byte) : continues b = true ↔ 128 ≤ b.toNat := by
  revert b; decide

theorem bit6_iff (p : BitVec 7) : p.getLsbD 6 = true ↔ 64 ≤ p.toNat := by
  revert p; decide

theorem groupByte_toNat (c : Bool) (p : BitVec 7) :
    (groupByte c p).toNat = p.toNat + if c then 128 else 0 := by
  cases c <;> revert p <;> decide

theorem byte_of_toNat {b : Byte} {n : Int} (h : (b.toNat : Int) = n) : b = BitVec.ofInt 8 n := by
  subst h
  exact BitVec.eq_of_toNat_eq (by simp)

theorem ofInt8_toNat {n : Int} (h : 0 ≤ n) (h' : n < 256) : ((BitVec.ofInt 8 n).toNat : Int) = n := by
  simp; omega

/-! ### The working value -/

/-- The integer a W-bit pattern stands for (R11). -/
def patInt {W : Nat} (g : Signedness) (a : BitVec W) : Int :=
  match g with
  | .unsigned => a.toNat
  | .signed => a.toInt

theorem encFinal_eq {W : Nat} (g : Signedness) (a : BitVec W) :
    encFinal g a = lastGroup g (patInt g a) := by
  cases g
  · simp only [encFinal, lastGroup, patInt]
    congr 1
    simp
  · rfl

/-- Both shifts are floor division by 128 (R77, R78). -/
theorem patInt_shiftGroup {W : Nat} (g : Signedness) (a : BitVec W) :
    patInt g (shiftGroup g a) = patInt g a / 128 := by
  cases g
  · simp [patInt, shiftGroup, BitVec.toNat_ushiftRight, Nat.shiftRight_eq_div_pow]
  · simp [patInt, shiftGroup, BitVec.toInt_sshiftRight, Int.shiftRight_eq_div_pow]

theorem accPattern_accOf {W : Nat} (h : W ≤ 128) (v : BitVec W) : accPattern W (accOf v) = v := by
  unfold accPattern accOf
  rw [BitVec.setWidth_setWidth_of_le _ h]
  simp

/-- A pattern and its integer agree modulo every divisor of `2^W`. -/
theorem toNat_emod_eq {W : Nat} (g : Signedness) (a : BitVec W) {m : Int} (hm : m ∣ 2 ^ W) :
    (a.toNat : Int) % m = patInt g a % m := by
  cases g
  · rfl
  · simp only [patInt]
    rw [BitVec.toInt_eq_toNat_bmod]
    have h : m ∣ ((2 ^ W : Nat) : Int) := by simpa using hm
    rw [← Int.emod_emod_of_dvd _ h, ← Int.emod_emod_of_dvd ((a.toNat : Int).bmod _) h, Int.bmod_emod]

theorem lowGroup_toNat {W : Nat} (h : 7 ≤ W) (g : Signedness) (a : BitVec W) :
    ((lowGroup a).toNat : Int) = patInt g a % 128 := by
  rw [← toNat_emod_eq g a (m := 128) (by exact_mod_cast pow_dvd_pow 2 h)]
  simp [lowGroup]

theorem workInt_eq (s : State) : workInt s = patInt s.sgn s.work := by
  unfold workInt patInt
  cases s.sgn <;> rfl

theorem encIsFinal_eq (s : State) : encIsFinal s = lastGroup s.sgn (workInt s) := by
  rw [encIsFinal, encFinal_eq, workInt_eq]

/-- The byte an ENC step offers, from the integer the working value stands for (R76). -/
theorem encByte_eq (s : State) :
    encByte s = BitVec.ofInt 8
      (if lastGroup s.sgn (workInt s) then workInt s % 128 else workInt s % 128 + 128) := by
  apply byte_of_toNat
  have h := lowGroup_toNat (by have := widthBits_ge s.wid; omega) s.sgn s.work
  rw [encByte, groupByte_toNat, encIsFinal_eq, workInt_eq]
  cases hl : lastGroup s.sgn (patInt s.sgn s.work) <;> simp [h]

/-- The working value after a non-final group (R76, R77, R78). -/
theorem work_after_shift (s : State) :
    operandInt s.sgn s.wid (accOf (shiftGroup s.sgn s.work)) = workInt s / 128 := by
  rw [workInt_eq, ← patInt_shiftGroup]
  have h : operandPattern (widthBits s.wid) (accOf (shiftGroup s.sgn s.work)) = shiftGroup s.sgn s.work :=
    accPattern_accOf (widthBits_le _) _
  have key : ∀ g, operandInt g s.wid (accOf (shiftGroup s.sgn s.work)) =
      patInt g (shiftGroup s.sgn s.work) := by
    intro g
    cases g <;> simp only [operandInt, patInt, h]
  exact key _

theorem accOf_lt {w : Width} (v : BitVec (widthBits w)) : (accOf v).toNat < 2 ^ widthBits w := by
  have h1 := v.isLt
  have h2 : 2 ^ widthBits w ≤ 2 ^ 128 := Nat.pow_le_pow_right (by decide) (widthBits_le w)
  simp [accOf]
  omega

/-- ACC after the merge of a payload (R98). -/
theorem accOf_merge (s : State) (p : BitVec 7) (shift : Nat) :
    accOf (mergePayload s.work p shift) =
      BitVec.ofNat 128 ((s.acc.toNat % 2 ^ widthBits s.wid) ||| (p.toNat * 2 ^ shift % 2 ^ widthBits s.wid)) := by
  apply BitVec.eq_of_toNat_eq
  simp [accOf, mergePayload, State.work, accPattern]

theorem work_mergeGroup (s : State) (p : BitVec 7) :
    (mergeGroup p s).work = mergePayload s.work p s.shift.toNat := by
  simp only [State.work, mergeGroup_acc]
  exact accPattern_accOf (widthBits_le _) _

/-- The two shifts of R102 are a sign extension from the top bit merged. -/
theorem signExtendFrom_eq {W : Nat} (acc : BitVec W) {sh : Nat} (hs : 0 < sh) (hW : 0 < W) :
    signExtendFrom acc sh = (acc.setWidth (min sh W)).signExtend W := by
  unfold signExtendFrom
  generalize hm : min sh W = m
  have hm0 : 0 < m := by omega
  have hmW : m ≤ W := by omega
  apply BitVec.eq_of_getLsbD_eq
  intro i hi
  rw [BitVec.getLsbD_sshiftRight, BitVec.getLsbD_signExtend]
  simp only [BitVec.getLsbD_shiftLeft, BitVec.getLsbD_setWidth, BitVec.msb_eq_getLsbD_last]
  have hWi : decide (W ≤ i) = false := by simp; omega
  simp only [hWi, hi, Bool.not_false, Bool.true_and, decide_true]
  by_cases h : i < m
  · have e1 : W - m + i < W := by omega
    have e2 : ¬ W - m + i < W - m := by omega
    have e3 : W - m + i - (W - m) = i := by omega
    simp [h, e1, e3]
  · have e1 : ¬ W - m + i < W := by omega
    have e2 : W - 1 - (W - m) = m - 1 := by omega
    have e3 : ¬ W - 1 < W - m := by omega
    have e4 : m - 1 < m := by omega
    have e5 : W - 1 < W := by omega
    simp [h, e1, e2, e4, e5, e3]

/-! ### The overflow tests -/

theorem exceedsUnsigned_iff (W shift : Nat) (p : BitVec 7) :
    exceedsUnsigned W shift p = true ↔ 2 ^ W ≤ p.toNat * 2 ^ shift := by
  simp [exceedsUnsigned]

/-- The excess bits agree with the sign bit exactly when payload bits 6 to k-1 are equal (R101). -/
theorem excessAgrees_iff {k : Nat} (p : BitVec 7) (h : 1 ≤ k) (h' : k ≤ 7) :
    excessAgrees k p = true ↔ p.toNat >>> (k - 1) = 0 ∨ p.toNat >>> (k - 1) = 2 ^ (8 - k) - 1 := by
  interval_cases k <;> revert p <;> decide

/-! ### Sequences of groups -/

theorem seqValue_lt (bs : List Byte) : seqValue bs < 2 ^ (7 * bs.length) := by
  induction bs with
  | nil => simp [seqValue]
  | cons b bs ih =>
    have := (payload b).isLt
    simp only [seqValue, List.length_cons, Nat.mul_add, pow_add]
    norm_num at *
    omega

theorem seqValue_append (bs : List Byte) (b : Byte) :
    seqValue (bs ++ [b]) = seqValue bs + 2 ^ (7 * bs.length) * (payload b).toNat := by
  induction bs with
  | nil => simp [seqValue]
  | cons c cs ih =>
    simp only [List.cons_append, seqValue, ih, List.length_cons, Nat.mul_add, pow_add]
    ring

/-- A sequence is its continuing groups and one final group (R68). -/
theorem isSequence_split {bs : List Byte} (h : isSequence bs = true) :
    ∃ cs b, bs = cs ++ [b] ∧ cs.all continues = true ∧ continues b = false := by
  induction bs with
  | nil => simp [isSequence] at h
  | cons b bs ih =>
    cases bs with
    | nil => exact ⟨[], b, rfl, rfl, by simpa [isSequence] using h⟩
    | cons c cs =>
      simp only [isSequence, Bool.and_eq_true] at h
      obtain ⟨ds, d, h1, h2, h3⟩ := ih h.2
      exact ⟨b :: ds, d, by simp [h1], by simp [h.1, h2], h3⟩

theorem encLoop_final {n : Nat} {g : Signedness} {r : Int} (h : lastGroup g r = true) :
    encLoop (n + 1) g r = [BitVec.ofInt 8 (r % 128)] := by
  simp [encLoop, h]

theorem encLoop_more {n : Nat} {g : Signedness} {r : Int} (h : lastGroup g r = false) :
    encLoop (n + 1) g r = BitVec.ofInt 8 (r % 128 + 128) :: encLoop n g (r / 128) := by
  simp [encLoop, h]

/-- The integer of an operand pattern is in the range of its width and signedness (R71). -/
theorem operandInt_inRange (g : Signedness) (w : Width) (v : Value) : InRange g w (operandInt g w v) := by
  cases g
  · simp only [InRange, operandInt]
    have h := (operandPattern (widthBits w) v).isLt
    have hz : ((2 ^ widthBits w : Nat) : Int) = 2 ^ widthBits w := by push_cast; rfl
    rw [← hz]
    omega
  · simp only [InRange, operandInt]
    have h1 := BitVec.le_toInt (operandPattern (widthBits w) v)
    have h2 := BitVec.toInt_lt (x := operandPattern (widthBits w) v)
    omega

/-! ### A command just accepted -/

/-- The acceptance of a command leaves a state that meets the invariant. -/
theorem latchCommand_inv (u : Unit2) (g : Signedness) (w : Width) (v : Value) (s : State) :
    Inv (latchCommand u g w v s) := by
  have hm := maxGroups_pos w
  refine ⟨⟨fun _ => rfl, by simp [latchCommand], by simp [latchCommand]⟩,
    ⟨by simp [latchCommand], fun _ => rfl, fun _ => rfl⟩, ?_, ?_, ?_, by simp [latchCommand]⟩
  · cases u
    · exact accOf_lt _
    · show (0 : Value).toNat < _
      simp
  · intro _ h
    subst h
    refine ⟨rfl, hm, ?_⟩
    have h := operandInt_inRange g w (latchCommand .enc g w v s).acc
    simpa [workInt, latchCommand] using h
  · intro _ h
    have hu : u = .dec := h
    subst hu
    exact ⟨rfl, by show (0 : Value).toNat < 2 ^ (7 * 0); decide⟩

end Sys2Proof.Machine
end

