-- ==== Sys2Proof/Tests/Slice0.lean ====
section
/-! SUPPORT. Decoding of every command word written out bit by bit, smoke tests of WellFormed, small one-step tests with
results from 95_test_vectors.md and the command rules, and a witness for the hypotheses of every statement. -/

namespace Sys2Proof.Tests

open Sys2Proof.Machine Sys2Proof.Claims

/-! ### Command words, as RSVD WSEL SGN OP (R59, R63) -/

theorem test_decode_encU8 : decode (0b000#3 ++ 0b000#3 ++ 0b0#1 ++ 0b0#1) = .ok .encU8 := by decide

theorem test_decode_decU8 : decode (0b000#3 ++ 0b000#3 ++ 0b0#1 ++ 0b1#1) = .ok .decU8 := by decide

theorem test_decode_encI8 : decode (0b000#3 ++ 0b000#3 ++ 0b1#1 ++ 0b0#1) = .ok .encI8 := by decide

theorem test_decode_decI8 : decode (0b000#3 ++ 0b000#3 ++ 0b1#1 ++ 0b1#1) = .ok .decI8 := by decide

theorem test_decode_encU16 : decode (0b000#3 ++ 0b001#3 ++ 0b0#1 ++ 0b0#1) = .ok .encU16 := by decide

theorem test_decode_decU16 : decode (0b000#3 ++ 0b001#3 ++ 0b0#1 ++ 0b1#1) = .ok .decU16 := by decide

theorem test_decode_encI16 : decode (0b000#3 ++ 0b001#3 ++ 0b1#1 ++ 0b0#1) = .ok .encI16 := by decide

theorem test_decode_decI16 : decode (0b000#3 ++ 0b001#3 ++ 0b1#1 ++ 0b1#1) = .ok .decI16 := by decide

theorem test_decode_encU32 : decode (0b000#3 ++ 0b010#3 ++ 0b0#1 ++ 0b0#1) = .ok .encU32 := by decide

theorem test_decode_decU32 : decode (0b000#3 ++ 0b010#3 ++ 0b0#1 ++ 0b1#1) = .ok .decU32 := by decide

theorem test_decode_encI32 : decode (0b000#3 ++ 0b010#3 ++ 0b1#1 ++ 0b0#1) = .ok .encI32 := by decide

theorem test_decode_decI32 : decode (0b000#3 ++ 0b010#3 ++ 0b1#1 ++ 0b1#1) = .ok .decI32 := by decide

theorem test_decode_encU64 : decode (0b000#3 ++ 0b011#3 ++ 0b0#1 ++ 0b0#1) = .ok .encU64 := by decide

theorem test_decode_decU64 : decode (0b000#3 ++ 0b011#3 ++ 0b0#1 ++ 0b1#1) = .ok .decU64 := by decide

theorem test_decode_encI64 : decode (0b000#3 ++ 0b011#3 ++ 0b1#1 ++ 0b0#1) = .ok .encI64 := by decide

theorem test_decode_decI64 : decode (0b000#3 ++ 0b011#3 ++ 0b1#1 ++ 0b1#1) = .ok .decI64 := by decide

theorem test_decode_encU128 : decode (0b000#3 ++ 0b100#3 ++ 0b0#1 ++ 0b0#1) = .ok .encU128 := by decide

theorem test_decode_decU128 : decode (0b000#3 ++ 0b100#3 ++ 0b0#1 ++ 0b1#1) = .ok .decU128 := by decide

theorem test_decode_encI128 : decode (0b000#3 ++ 0b100#3 ++ 0b1#1 ++ 0b0#1) = .ok .encI128 := by decide

theorem test_decode_decI128 : decode (0b000#3 ++ 0b100#3 ++ 0b1#1 ++ 0b1#1) = .ok .decI128 := by decide

theorem test_decode_encUPtr : decode (0b000#3 ++ 0b101#3 ++ 0b0#1 ++ 0b0#1) = .ok .encUPtr := by decide

theorem test_decode_decUPtr : decode (0b000#3 ++ 0b101#3 ++ 0b0#1 ++ 0b1#1) = .ok .decUPtr := by decide

theorem test_decode_encIPtr : decode (0b000#3 ++ 0b101#3 ++ 0b1#1 ++ 0b0#1) = .ok .encIPtr := by decide

theorem test_decode_decIPtr : decode (0b000#3 ++ 0b101#3 ++ 0b1#1 ++ 0b1#1) = .ok .decIPtr := by decide

/-! ### What the checks refuse (R9, R18, R36, R66) -/

theorem test_wf_reserved_width : legalWord 0x18 = false ∧ legalWord 0x1F = false := by decide

theorem test_wf_reserved_bits : legalWord 0x20 = false ∧ legalWord 0x97 = false := by decide

theorem test_decode_reserved : decode 0x18 = .error .reservedWidth ∧ decode 0x1C = .error .reservedWidth ∧
    decode 0x20 = .error .reservedBits ∧ decode 0xFF = .error .reservedBits := by decide

theorem test_wf_wide_write : HostMove.wf (.write 0 0x100) = false ∧ HostMove.wf (.write 3 0x100) = false ∧
    HostMove.wf (.write 0 0xFF) = true ∧ HostMove.wf (.write 4 (-1)) = true := by decide

theorem test_wf_no_blocks : System.wf { blocks := [] } = false := by decide

theorem test_table_word_too_wide : decodeTableWord 16 0x0100 = none ∧ decodeTableWord 8 0x17 = some .decIPtr := by
  decide

/-! ### Small states -/

/-- A block with PTR_WIDTH = 32 after reset. -/
def fresh : State := { State.reset with ptrWidth := .p32 }

/-- The same with OPERAND written. -/
def ready (v : Value) : State := { fresh with operand := v, operandWritten := true }

/-- An ENC command just accepted, with the sink's answers to come. -/
def encBusy (g : Signedness) (w : Width) (v : Value) (answers : List SinkAnswer) : State :=
  { latchCommand .enc g w v (ready v) with sinkAnswers := answers }

/-- An ENC command accepted before OPERAND is written. -/
def encUnwritten (g : Signedness) (w : Width) : State :=
  recordFault .encodedUnwritten (latchCommand .enc g w (unspecifiedValue fresh) fresh)

/-- A DEC command just accepted, with the source's answers to come. -/
def decBusy (g : Signedness) (w : Width) (answers : List SourceAnswer) : State :=
  { latchCommand .dec g w 0 fresh with sourceAnswers := answers }

/-- A DEC command that has read one byte 0x80 of a width of 8 bits: its next group straddles the width. -/
def decStraddle (g : Signedness) (answers : List SourceAnswer) : State :=
  { decBusy g .w8 answers with count := 1, lastb := 0x80, shift := 7 }

/-- A DEC command that has read two bytes 0x80 of a width of 8 bits: the length guard is next. -/
def decFull (g : Signedness) (answers : List SourceAnswer) : State :=
  { decBusy g .w8 answers with count := 2, lastb := 0x80, shift := 14 }

/-- A state with the turns to come. -/
def withTurns (turns : List Turn) (s : State) : State := { s with schedule := turns }

/-! ### The encoder, one step (R76; values of R83 to R93) -/

theorem test_encU8_first : (codecTurn (encBusy .unsigned .w8 0x80 [.ack])).sink = [0x80] ∧
    (codecTurn (encBusy .unsigned .w8 0x80 [.ack])).acc = 1 ∧
    (codecTurn (encBusy .unsigned .w8 0x80 [.ack])).status.word = 0x01 := by decide

theorem test_encU8_last : (codecTurn (encBusy .unsigned .w8 0x7F [.ack])).sink = [0x7F] ∧
    (codecTurn (encBusy .unsigned .w8 0x7F [.ack])).count = 1 ∧
    (codecTurn (encBusy .unsigned .w8 0x7F [.ack])).status.word = 0x02 := by decide

theorem test_encI8_minus64 : (codecTurn (encBusy .signed .w8 0xC0 [.ack])).sink = [0x40] ∧
    (codecTurn (encBusy .signed .w8 0xC0 [.ack])).status.word = 0x02 := by decide

theorem test_encI8_minus65 : (codecTurn (encBusy .signed .w8 0xBF [.ack])).sink = [0xBF] ∧
    (codecTurn (encBusy .signed .w8 0xBF [.ack])).acc = 0xFF := by decide

theorem test_encI8_64 : (codecTurn (encBusy .signed .w8 64 [.ack])).sink = [0xC0] ∧
    (codecTurn (encBusy .signed .w8 64 [.ack])).acc = 0 := by decide

theorem test_encU16_high_bits_ignored : (codecTurn (encBusy .unsigned .w16 0xABCD3239 [.ack])).sink = [0xB9] ∧
    (codecTurn (encBusy .unsigned .w16 0xABCD3239 [.ack])).acc = 100 := by decide

theorem test_encI32_minus1 : (codecTurn (encBusy .signed .w32 0xFFFFFFFF [.ack])).sink = [0x7F] := by decide

theorem test_encU128_max : (codecTurn (encBusy .unsigned .w128 (-1) [.ack])).lastb = 0xFF ∧
    (codecTurn (encBusy .unsigned .w128 (-1) [.ack])).acc.toNat = 2 ^ 121 - 1 := by decide

theorem test_enc_sink_error : (codecTurn (encBusy .unsigned .w8 0x7F [.err])).status.word = 0x06 ∧
    (codecTurn (encBusy .unsigned .w8 0x7F [.err])).count = 0 ∧
    (codecTurn (encBusy .unsigned .w8 0x7F [.err])).lastb = 0 := by decide

/-! ### `EncBytes` and the sequence values (95_test_vectors.md sections 1 and 2) -/

theorem test_encBytes_u64 : encBytes .w64 .unsigned 268435142 = [0xC6, 0xFD, 0xFF, 0x7F] := by decide

theorem test_encBytes_s16 : encBytes .w16 .signed (-127) = [0x81, 0x7F] ∧
    encBytes .w16 .signed 127 = [0xFF, 0x00] ∧ encBytes .w16 .signed (-2) = [0x7E] := by decide

theorem test_encBytes_i128_min : encBytes .w128 .signed (-(2 ^ 127)) = List.replicate 18 0x80 ++ [0x7E] := by decide

theorem test_seqInt_padded : seqInt .signed [0xFF, 0x7F] = -1 ∧ seqInt .unsigned [0x80, 0x00] = 0 := by decide

/-! ### The decoder, one step (R95; values of R108 to R118) -/

theorem test_decU8_overflow : (codecTurn (decStraddle .unsigned [.byte 0x02])).status.word = 0x0A ∧
    (codecTurn (decStraddle .unsigned [.byte 0x02])).count = 2 ∧
    (codecTurn (decStraddle .unsigned [.byte 0x02])).lastb = 0x02 := by decide

theorem test_decU8_128 : (codecTurn (decStraddle .unsigned [.byte 0x01])).result = 128 ∧
    (codecTurn (decStraddle .unsigned [.byte 0x01])).status.word = 0x12 := by decide

theorem test_decU8_guard_reads_nothing :
    (codecTurn (decFull .unsigned [.byte 0x00])).sourceAnswers = [.byte 0x00] ∧
    (codecTurn (decFull .unsigned [.byte 0x00])).status.word = 0x0A ∧
    (codecTurn (decFull .unsigned [.byte 0x00])).count = 2 := by decide

theorem test_decI8_minus128 : (codecTurn (decStraddle .signed [.byte 0x7F])).result.toInt = -128 ∧
    (codecTurn (decStraddle .signed [.byte 0x7F])).status.word = 0x12 := by decide

theorem test_decI8_overflow : (codecTurn (decStraddle .signed [.byte 0x01])).status.word = 0x0A ∧
    (codecTurn (decStraddle .signed [.byte 0x3F])).status.word = 0x0A ∧
    (codecTurn (decStraddle .signed [.byte 0x40])).status.word = 0x0A := by decide

theorem test_decI16_minus2 : (codecTurn (decBusy .signed .w16 [.byte 0x7E])).result.toInt = -2 := by decide

theorem test_dec_no_byte : (codecTurn (decBusy .unsigned .w8 [.err])).status.word = 0x06 ∧
    (codecTurn (decBusy .unsigned .w8 [.err])).count = 0 := by decide

/-! ### Command requests and host accesses, one step (R20, R22, R31) -/

/-- The state after a step that answers one. -/
def after (a : Answer) : State :=
  match a with
  | .next s => s
  | .fault _ => fresh
  | .refused _ => fresh

theorem test_uptr_width : (after (step (fresh.withFetchWord 8 0x14))).wid = .w32 ∧
    (after (step (fresh.withFetchWord 8 0x14))).status.word = 0x01 := by decide

theorem test_illegal_word : (after (step (fresh.withFetchWord 8 0x18))).status.word = 0x0E := by decide

theorem test_read_unassigned :
    (after (step (withTurns [.host (.read 15)] { fresh with readData := 7 }))).readData = 0 := by decide

/-- R38: the read of OPERAND before its first write goes on, with a fault recorded (93_implementation_defined.md). -/
theorem test_read_unwritten_goes_on :
    (after (step (withTurns [.host (.read 4)] (ready 5)))).faults = [] ∧
    (after (step (withTurns [.host (.read 4)] (ready 5)))).readData = 5 ∧
    (after (step (withTurns [.host (.read 4)] fresh))).faults = [.readUnwritten] := by decide

/-- R38: ENC_U16 before the first write of OPERAND runs, with a fault recorded. -/
theorem test_enc_unwritten_runs :
    (after (step (fresh.withFetchWord 8 0x04))).status.word = 0x01 ∧
    (after (step (fresh.withFetchWord 8 0x04))).wid = .w16 ∧
    (after (step (fresh.withFetchWord 8 0x04))).faults = [.encodedUnwritten] := by decide

/-- R139: a reset in an ENC command undoes no transfer: the byte 0x80 stays handed over. -/
theorem test_reset_undoes_no_transfer :
    (resetBlock (codecTurn (encBusy .unsigned .w8 0x80 [.ack]))).handed = [0x80] ∧
    (resetBlock (codecTurn (encBusy .unsigned .w8 0x80 [.ack]))).status.word = 0x00 := by decide

/-- R39, R139: a reset in a DEC command leaves the sink as it was. -/
theorem test_reset_in_dec_keeps_the_sink :
    (resetBlock { decBusy .signed .w8 [] with sink := [7] }).sink = [7] ∧
    (resetBlock { finishEnc fresh with sink := [7] }).sink = [7] := by decide

theorem test_read_status_while_busy :
    (after (step (withTurns [.host (.read 1)] (decBusy .signed .w8 [])))).readData = 1 := by decide

/-! ### Witnesses: concrete states and operands that meet the hypotheses of the statements -/

theorem witness_DecodeAndEncodeAgree :
    Instr.wf .encU8 = true ∧ decode 0x00 = .ok .encU8 ∧ decode 0x17 = .ok .decIPtr := by decide

/-- Requests for the first and the last command word. -/
theorem witness_StepRunsTheRequestedCommand :
    (Requests (withTurns [.host (.write 0 0x00)] fresh) 0x00 [] ∧ decode 0x00 = .ok .encU8) ∧
    (Requests (withTurns [.host (.write 0 0x17)] fresh) 0x17 [] ∧ decode 0x17 = .ok .decIPtr) :=
  ⟨⟨⟨0x00, by decide, rfl⟩, by decide⟩, ⟨⟨0x17, by decide, rfl⟩, by decide⟩⟩

theorem witness_EncCommandsAreAccepted : (Instr.encIPtr, Signedness.signed, WidthSel.sPtr) ∈ encTable ∧
    (ready 5).status.state ≠ .busy ∧ (ready 5).operandWritten = true := by decide

theorem witness_DecCommandsAreAccepted : (Instr.decU8, Signedness.unsigned, WidthSel.s8) ∈ decTable ∧
    fresh.status.state ≠ .busy := by decide

theorem witness_RequestsWhileBusyAreDropped :
    (withTurns [.host (.write 0 0xFF)] (decBusy .unsigned .w8 [])).status.state = .busy ∧
    Requests (withTurns [.host (.write 0 0xFF)] (decBusy .unsigned .w8 [])) 0xFF [] ∧
    (withTurns [.host (.write 4 9)] (encBusy .signed .w16 5 [])).status.state = .busy ∧
    (withTurns [.host (.write 4 9)] (encBusy .signed .w16 5 [])).schedule = .host (.write 4 9) :: [] :=
  ⟨rfl, ⟨0xFF, by decide, rfl⟩, rfl, rfl⟩

/-- The least and the greatest word of each clause. -/
theorem witness_IllegalWordsCompleteAtOnce :
    (0x18 ≤ (0x18 : Byte).toNat ∧ (0x18 : Byte).toNat ≤ 0x1F) ∧ (0x18 ≤ (0x1F : Byte).toNat ∧ (0x1F : Byte).toNat ≤ 0x1F) ∧
    0x20 ≤ (0x20 : Byte).toNat ∧ 0x20 ≤ (0xFF : Byte).toNat ∧ legalWord 0x18 = false ∧ legalWord 0xFF = false ∧
    Requests (withTurns [.host (.write 0 0x18)] fresh) 0x18 [] ∧ fresh.status.state ≠ .busy :=
  ⟨by decide, by decide, by decide, by decide, by decide, by decide, ⟨0x18, by decide, rfl⟩, by decide⟩

theorem witness_RegistersWithoutValueFault :
    ((withTurns [.host (.read 5)] fresh).schedule = .host (.read 5) :: [] ∧ fresh.status.rvalid = false) ∧
    ((withTurns [.host (.read 4)] fresh).schedule = .host (.read 4) :: [] ∧ fresh.operandWritten = false) ∧
    ((Instr.encU8, Signedness.unsigned, WidthSel.s8) ∈ encTable ∧ fresh.status.state ≠ .busy ∧
      fresh.operandWritten = false) := by decide

/-- The three uses that record a fault, each as a step after reset, and a state that has one. -/
theorem witness_RecordedFaultsStay :
    step (withTurns [.host (.read 5)] fresh) = .next (hostRead 5 fresh) ∧
    (hostRead 5 fresh).faults = [.readNoResult] ∧
    step (withTurns [.host (.read 4)] fresh) = .next (hostRead 4 fresh) ∧
    (hostRead 4 fresh).faults = [.readUnwritten] ∧
    (Requests (withTurns [.host (.write 0 0x00)] fresh) 0x00 [] ∧
      step (withTurns [.host (.write 0 0x00)] fresh) = .next (encUnwritten .unsigned .w8) ∧
      (encUnwritten .unsigned .w8).faults = [.encodedUnwritten] ∧
      decode 0x00 = .ok .encU8 ∧ (Instr.encU8, Signedness.unsigned, WidthSel.s8) ∈ encTable) ∧
    steps 3 (hostRead 4 fresh) = .next (hostRead 4 fresh) :=
  ⟨rfl, rfl, rfl, rfl, ⟨⟨0x00, by decide, rfl⟩, rfl, rfl, by decide, by decide⟩, rfl⟩

theorem witness_HostAccessesAreAlwaysPermitted :
    (∀ r, (withTurns [.host (.read r)] fresh).schedule = .host (.read r) :: []) ∧
    (∀ r v, (withTurns [.host (.write r v)] fresh).schedule = .host (.write r v) :: []) ∧
    (withTurns [.host .wait] (decBusy .signed .w8 [])).schedule = .host .wait :: [] ∧
    (withTurns [.host .reset] (decBusy .signed .w8 [])).schedule = .host .reset :: [] :=
  ⟨fun _ => rfl, fun _ _ => rfl, rfl, rfl⟩

theorem witness_PointerCommandsFollowPtrWidth : fresh.ptrWidth = .p32 ∧
    ({ fresh with ptrWidth := .p16 } : State).ptrWidth = .p16 ∧
    ({ fresh with ptrWidth := .p64 } : State).ptrWidth = .p64 := by decide

theorem witness_AcceptanceFrame : exec .decU8 fresh = .next (decBusy .unsigned .w8 []) ∧
    exec .encU8 (ready 5) = .next (encBusy .unsigned .w8 5 []) ∧ (ready 5).operandWritten = true ∧
    (∃ row ∈ decTable, row.1 = .decU8) ∧ exec .encU8 fresh = .next (encUnwritten .unsigned .w8) :=
  ⟨rfl, rfl, rfl, by decide, rfl⟩

theorem witness_inv_encBusy : Inv (encBusy .signed .w8 0x80 [.ack]) :=
  latchCommand_inv .enc .signed .w8 0x80 { ready 0x80 with sinkAnswers := [.ack] }

theorem witness_inv_decBusy (g : Signedness) (w : Width) (answers : List SourceAnswer) :
    Inv (decBusy g w answers) :=
  latchCommand_inv .dec g w 0 { fresh with sourceAnswers := answers }

/-- The straddling group and the guard, each in a state that meets the invariant. -/
theorem witness_inv_decLate (g : Signedness) (answers : List SourceAnswer) :
    Inv (decStraddle g answers) ∧ Inv (decFull g answers) := by
  refine ⟨⟨⟨?_, ?_, ?_⟩, ⟨?_, ?_, ?_⟩, ?_, ?_, ?_, ?_⟩, ⟨⟨?_, ?_, ?_⟩, ⟨?_, ?_, ?_⟩, ?_, ?_, ?_, ?_⟩⟩ <;>
    simp [decStraddle, decFull, decBusy, latchCommand, fresh, State.reset, maxGroups, widthBits, initialAcc]

theorem witness_StatusLayout : Inv (decFull .signed [.err]) := (witness_inv_decLate .signed [.err]).2

theorem witness_HostReadsReturnTheRegisters :
    (∀ r : RegNum, (withTurns [.host (.read r)] fresh).schedule = .host (.read r) :: []) ∧
    (0 : RegNum).toNat = 0 ∧ (1 : RegNum).toNat = 1 ∧ (2 : RegNum).toNat = 2 ∧ (3 : RegNum).toNat = 3 ∧
    ((4 : RegNum).toNat = 4 ∧ (ready 5).operandWritten = true) ∧
    ((5 : RegNum).toNat = 5 ∧ (finishDec 9 fresh).status.rvalid = true) ∧
    6 ≤ (6 : RegNum).toNat ∧ 6 ≤ (15 : RegNum).toNat :=
  ⟨fun _ => rfl, rfl, rfl, rfl, rfl, ⟨rfl, rfl⟩, ⟨rfl, rfl⟩, by decide, by decide⟩

theorem witness_HostWritesReachOnlyOperand :
    (∀ r v, (withTurns [.host (.write r v)] fresh).schedule = .host (.write r v) :: []) ∧
    (4 : RegNum).toNat = 4 ∧ ((3 : RegNum).toNat ≠ 0 ∧ (3 : RegNum).toNat ≠ 4) ∧
    ((5 : RegNum).toNat ≠ 0 ∧ (5 : RegNum).toNat ≠ 4) ∧ ((15 : RegNum).toNat ≠ 0 ∧ (15 : RegNum).toNat ≠ 4) :=
  ⟨fun _ _ => rfl, rfl, by decide, by decide, by decide⟩

theorem witness_WaitPollsStatus :
    ((withTurns [.host .wait] fresh).schedule = .host .wait :: [] ∧ fresh.status.state ≠ .busy) ∧
    ((withTurns [.host .wait] (decBusy .signed .w8 [])).schedule = .host .wait :: [] ∧
      (decBusy .signed .w8 []).status.state = .busy) := by decide

theorem witness_EncoderShiftsKeepTheSign : InRange .unsigned .w8 0 ∧ InRange .unsigned .w8 255 ∧
    InRange .signed .w8 (-128) ∧ InRange .signed .w8 127 := by decide

/-- The three clauses at the boundary of the stop test: 127 is final, 128 is not. -/
theorem witness_EncoderStep :
    (Running .enc (encBusy .unsigned .w8 127 [.err]) ∧ CodecsTurn (encBusy .unsigned .w8 127 [.err]) [] ∧
      (encBusy .unsigned .w8 127 [.err]).sinkAnswers = .err :: []) ∧
    (Running .enc (encBusy .unsigned .w8 127 [.ack]) ∧ CodecsTurn (encBusy .unsigned .w8 127 [.ack]) [] ∧
      (encBusy .unsigned .w8 127 [.ack]).sinkAnswers = .ack :: [] ∧
      lastGroup .unsigned (workInt (encBusy .unsigned .w8 127 [.ack])) = true) ∧
    (Running .enc (withTurns [.codec] (encBusy .unsigned .w8 128 [.ack])) ∧
      CodecsTurn (withTurns [.codec] (encBusy .unsigned .w8 128 [.ack])) [] ∧
      (encBusy .unsigned .w8 128 [.ack]).sinkAnswers = .ack :: [] ∧
      lastGroup .unsigned (workInt (withTurns [.codec] (encBusy .unsigned .w8 128 [.ack]))) = false) := by
  decide

/-- A sink that acknowledges both bytes of 128, one that fails at the first and one that fails at the last; a block whose
OPERAND is written and one whose OPERAND is not. -/
theorem witness_EncodeEmitsEncBytes : (Instr.encU8, Signedness.unsigned, WidthSel.s8) ∈ encTable ∧
    (ready 0x80).status.state ≠ .busy ∧ (ready 0x80).operandWritten = true ∧ (ready 0x80).schedule = [] ∧
    fresh.status.state ≠ .busy ∧ fresh.operandWritten = false ∧ fresh.schedule = [] ∧
    [0x80, 0x01] = encBytes .w8 .unsigned (operandInt .unsigned .w8 (ready 0x80).operand) ∧
    ({ ready 0x80 with sinkAnswers := [.ack, .ack] } : State).sinkAnswers = List.replicate 2 .ack ++ [] ∧
    (0 < [0x80, 0x01].length ∧
      ({ ready 0x80 with sinkAnswers := [.err] } : State).sinkAnswers = List.replicate 0 .ack ++ .err :: []) ∧
    (1 < [0x80, 0x01].length ∧
      ({ ready 0x80 with sinkAnswers := [.ack, .err] } : State).sinkAnswers =
        List.replicate 1 .ack ++ .err :: []) := by decide

/-- The extreme values of the widths of 8 bits, and a padded sequence of the same value. -/
theorem witness_EncodingIsCanonical :
    (InRange .unsigned .w8 (2 ^ widthBits .w8 - 1) ∧ [0xFF, 0x01] = encBytes .w8 .unsigned (2 ^ widthBits .w8 - 1)) ∧
    (InRange .signed .w8 (-(2 ^ (widthBits .w8 - 1))) ∧
      [0x80, 0x7F] = encBytes .w8 .signed (-(2 ^ (widthBits .w8 - 1)))) ∧
    InRange .signed .w8 (2 ^ (widthBits .w8 - 1) - 1) ∧ 1 ≤ 1 ∧
    (InRange .unsigned .w8 0 ∧ isSequence [0x80, 0x00] = true ∧ seqInt .unsigned [0x80, 0x00] = 0) := by decide

theorem witness_EncoderNeverOverflows : Inv (encBusy .signed .w8 0x80 [.ack]) ∧
    Running .enc (encBusy .signed .w8 0x80 [.ack]) ∧
    codecStep (encBusy .signed .w8 0x80 [.ack]) = some (codecTurn (encBusy .signed .w8 0x80 [.ack])) :=
  ⟨witness_inv_encBusy, by decide, by decide⟩

theorem witness_DecoderStep_guard : Running .dec (decFull .unsigned []) ∧ CodecsTurn (decFull .unsigned []) [] ∧
    (decFull .unsigned []).shift.toNat % 7 = 0 ∧ widthBits .w8 < (decFull .unsigned []).shift.toNat := by decide

theorem witness_DecoderStep_err : Running .dec (decStraddle .signed [.err]) ∧ CodecsTurn (decStraddle .signed [.err]) [] ∧
    (decStraddle .signed [.err]).shift.toNat % 7 = 0 ∧ (decStraddle .signed [.err]).shift.toNat ≤ widthBits .w8 ∧
    (decStraddle .signed [.err]).sourceAnswers = .err :: [] := by decide

/-- A BUSY DEC command on the codec's turn that will read the byte b. -/
abbrev ReadsByte (s : State) (b : Byte) : Prop :=
  Running .dec s ∧ CodecsTurn s [] ∧ s.shift.toNat % 7 = 0 ∧ s.shift.toNat ≤ widthBits s.wid ∧
  s.sourceAnswers = .byte b :: []

/-- The three clauses of an unsigned byte, at the straddling group of a width of 8 bits: payload 2, continuing payload 1 and
final payload 1. -/
theorem witness_DecoderStep_unsigned :
    (ReadsByte (decStraddle .unsigned [.byte 0x02]) 0x02 ∧ 2 ^ 8 ≤ (0x02 : Byte).toNat % 128 * 2 ^ 7) ∧
    (ReadsByte (decStraddle .unsigned [.byte 0x81]) 0x81 ∧ (0x81 : Byte).toNat % 128 * 2 ^ 7 < 2 ^ 8 ∧
      128 ≤ (0x81 : Byte).toNat) ∧
    (ReadsByte (decStraddle .unsigned [.byte 0x01]) 0x01 ∧ (0x01 : Byte).toNat % 128 * 2 ^ 7 < 2 ^ 8 ∧
      (0x01 : Byte).toNat < 128) := by decide

/-- The two clauses of a signed final byte: payload 1 does not fit 8 bits; 0 and 0x7F do, and so does any payload of a group
inside the width. -/
theorem witness_DecoderStep_signed :
    (ReadsByte (decStraddle .signed [.byte 0x01]) 0x01 ∧ (0x01 : Byte).toNat < 128 ∧ 8 < 7 + 7 ∧
      (0x01 : Byte).toNat % 128 >>> (8 - 7 - 1) ≠ 0 ∧
      (0x01 : Byte).toNat % 128 >>> (8 - 7 - 1) ≠ 2 ^ (8 - (8 - 7)) - 1) ∧
    (ReadsByte (decStraddle .signed [.byte 0x00]) 0x00 ∧ (0x00 : Byte).toNat % 128 >>> (8 - 7 - 1) = 0) ∧
    (ReadsByte (decStraddle .signed [.byte 0x7F]) 0x7F ∧
      (0x7F : Byte).toNat % 128 >>> (8 - 7 - 1) = 2 ^ (8 - (8 - 7)) - 1) ∧
    (ReadsByte (decBusy .signed .w8 [.byte 0x01]) 0x01 ∧ 0 + 7 ≤ widthBits .w8) := by decide

theorem witness_LengthGuard : Running .dec (decFull .signed []) ∧ widthBits .w8 < (decFull .signed []).shift.toNat ∧
    Inv (decFull .signed []) ∧ Inv (decBusy .signed .w8 []) ∧ Running .dec (decBusy .signed .w8 []) :=
  ⟨by decide, by decide, (witness_inv_decLate .signed []).2, witness_inv_decBusy _ _ _, by decide⟩

/-- The excess payload 2, with the continuation flag set and clear. -/
theorem witness_UnsignedPerGroupCheck :
    (Inv (decStraddle .unsigned [.byte 0x82]) ∧ Running .dec (decStraddle .unsigned [.byte 0x82]) ∧
      (decStraddle .unsigned [.byte 0x82]).shift.toNat ≤ widthBits .w8 ∧
      2 ^ widthBits .w8 ≤ (payload 0x82).toNat * 2 ^ (decStraddle .unsigned [.byte 0x82]).shift.toNat) ∧
    (Inv (decStraddle .unsigned [.byte 0x02]) ∧
      2 ^ widthBits .w8 ≤ (payload 0x02).toNat * 2 ^ (decStraddle .unsigned [.byte 0x02]).shift.toNat) :=
  ⟨⟨(witness_inv_decLate _ _).1, by decide, by decide, by decide⟩, (witness_inv_decLate _ _).1, by decide⟩

theorem witness_SignedExcessCheck : Inv (decStraddle .signed [.byte 0x01]) ∧
    Running .dec (decStraddle .signed [.byte 0x01]) ∧
    (decStraddle .signed [.byte 0x01]).shift.toNat ≤ widthBits .w8 ∧
    (decStraddle .signed [.byte 0x01]).sourceAnswers = .byte 0x01 :: [] ∧ continues 0x01 = false :=
  ⟨(witness_inv_decLate _ _).1, by decide, by decide, by decide, by decide⟩

/-- The four cases of R105, each at the greatest length it admits for a width of 8 bits. -/
theorem witness_DecodeOutcomes : (Instr.decU8, Signedness.unsigned, WidthSel.s8) ∈ decTable ∧
    fresh.status.state ≠ .busy ∧ fresh.schedule = [] ∧
    (isSequence [0x7F] = true ∧ [0x7F].length < maxGroups .w8) ∧
    ([0x80].length < maxGroups .w8 ∧ ([0x80] : List Byte).all continues = true ∧
      ({ fresh with sourceAnswers := [.byte 0x80, .err] } : State).sourceAnswers =
        [0x80].map .byte ++ .err :: []) ∧
    ([0x80, 0x80].length = maxGroups .w8 ∧ ([0x80, 0x80] : List Byte).all continues = true ∧
      ({ fresh with sourceAnswers := [.byte 0x80, .byte 0x80, .byte 0x00] } : State).sourceAnswers =
        [0x80, 0x80].map .byte ++ [.byte 0x00]) ∧
    (isSequence [0x80, 0x02] = true ∧ [0x80, 0x02].length ≤ maxGroups .w8 ∧
      ¬ InRange .unsigned .w8 (seqInt .unsigned [0x80, 0x02])) ∧
    (isSequence [0xFF, 0x01] = true ∧ InRange .unsigned .w8 (seqInt .unsigned [0xFF, 0x01])) := by decide

theorem witness_DecodeOfEncodeIsTheInteger : (Instr.decI8, Signedness.signed, WidthSel.s8) ∈ decTable ∧
    fresh.status.state ≠ .busy ∧ fresh.schedule = [] ∧ InRange .signed .w8 (-128) ∧
    [0x80, 0x7F] = encBytes .w8 .signed (-128) ∧
    ({ fresh with sourceAnswers := [.byte 0x80, .byte 0x7F] } : State).sourceAnswers =
      [0x80, 0x7F].map .byte ++ [] := by decide

theorem witness_WorkingRegistersFollowTheGroups :
    ((Instr.encU8, Signedness.unsigned, WidthSel.s8) ∈ encTable ∧ (ready 0x80).operandWritten = true ∧
      operandInt .unsigned .w8 (ready 0x80).operand = 128 ∧ 1 < (encBytes .w8 .unsigned 128).length ∧
      ({ ready 0x80 with sinkAnswers := [.ack] } : State).sinkAnswers = List.replicate 1 .ack ++ []) ∧
    ((Instr.decU8, Signedness.unsigned, WidthSel.s8) ∈ decTable ∧ [0x80, 0x81].length ≤ maxGroups .w8 ∧
      ([0x80, 0x81] : List Byte).all continues = true ∧ seqValue [0x80, 0x81] < 2 ^ widthBits .w8 ∧
      ({ fresh with sourceAnswers := [.byte 0x80, .byte 0x81] } : State).sourceAnswers =
        [0x80, 0x81].map .byte ++ []) := by decide

theorem witness_PaddingKeepsTheValue :
    (isSequence [0x7F] = true ∧ 0x7F#8 = (if seqInt .signed [0x7F] < 0 then 0x7F#8 else 0x00#8) ∧
      [0xFF, 0x7F] = ([0x7F] : List Byte).dropLast ++ [([0x7F] : List Byte).getLastD 0 ||| 0x80, 0x7F]) ∧
    (Instr.decI8, Signedness.signed, WidthSel.s8) ∈ decTable ∧ fresh.status.state ≠ .busy ∧ fresh.schedule = [] ∧
    InRange .signed .w8 (seqInt .signed [0x7F]) ∧ [0xFF, 0x7F].length ≤ maxGroups .w8 ∧
    ({ fresh with sourceAnswers := [.byte 0xFF, .byte 0x7F] } : State).sourceAnswers =
      [0xFF, 0x7F].map .byte ++ [] := by decide

theorem witness_UnsignedCheckPoliciesAgree : Inv (decStraddle .unsigned [.byte 0x82]) ∧
    Running .dec (decStraddle .unsigned [.byte 0x82]) ∧ (decStraddle .unsigned [.byte 0x82]).sgn = .unsigned ∧
    maxGroups .w8 + 1 ≤ 3 :=
  ⟨(witness_inv_decLate _ _).1, by decide, by decide, by decide⟩

/-- Steps that change STATE, STATUS or RESULT: an acceptance, a completion and a reset. -/
theorem witness_transitions :
    step (decBusy .unsigned .w8 [.byte 0x05]) = .next (codecTurn (decBusy .unsigned .w8 [.byte 0x05])) ∧
    (codecTurn (decBusy .unsigned .w8 [.byte 0x05])).status ≠ (decBusy .unsigned .w8 [.byte 0x05]).status ∧
    (codecTurn (decBusy .unsigned .w8 [.byte 0x05])).result ≠ (decBusy .unsigned .w8 [.byte 0x05]).result ∧
    step (withTurns [.host (.write 0 0x01)] fresh) = .next (decBusy .unsigned .w8 []) ∧
    step (withTurns [.host .reset] (finishDec 9 fresh)) = .next (resetBlock (finishDec 9 fresh)) :=
  ⟨rfl, by decide, by decide, rfl, rfl⟩

theorem witness_WidthAndSignednessAreFixed :
    (decBusy .unsigned .w8 [.byte 0x85]).status.state = .busy ∧
    step (decBusy .unsigned .w8 [.byte 0x85]) = .next (codecTurn (decBusy .unsigned .w8 [.byte 0x85])) ∧
    ∀ turns, (decBusy .unsigned .w8 [.byte 0x85]).schedule ≠ .host .reset :: turns :=
  ⟨by decide, rfl, fun turns h => by cases h⟩

/-- One codec step of each unit, for the statements about a codec step. -/
theorem witness_codecStep :
    (codecStep (encBusy .unsigned .w8 5 [.ack]) = some (codecTurn (encBusy .unsigned .w8 5 [.ack])) ∧
      (encBusy .unsigned .w8 5 [.ack]).opk = .enc) ∧
    (codecStep (decBusy .unsigned .w8 [.byte 0x85]) = some (codecTurn (decBusy .unsigned .w8 [.byte 0x85])) ∧
      (decBusy .unsigned .w8 [.byte 0x85]).opk = .dec ∧
      (codecTurn (decBusy .unsigned .w8 [.byte 0x85])).status.state ≠ .done ∧
      (codecTurn (decBusy .unsigned .w8 [.byte 0x85])).status.rvalid = false) := by decide

theorem witness_NoHiddenCarryOver : SameButHidden fresh { fresh with acc := 7, shift := 14, wid := .w64 } ∧
    fresh.status.state ≠ .busy := ⟨rfl, by decide⟩

theorem witness_ResetInAnyState :
    ((withTurns [.host .reset] (decStraddle .signed [.err])).schedule = .host .reset :: [] ∧
      ¬ Running .enc (withTurns [.host .reset] (decStraddle .signed [.err]))) ∧
    ((withTurns [.host .reset] (encBusy .unsigned .w8 0x80 [])).schedule = .host .reset :: [] ∧
      Running .enc (withTurns [.host .reset] (encBusy .unsigned .w8 0x80 []))) := by decide

theorem witness_NothingMovesBetweenCommands : fresh.status.state ≠ .busy ∧ fresh.schedule = [] := by decide

theorem witness_SilentStreamHangs :
    ((encBusy .unsigned .w8 5 []).status.state = .busy ∧ (encBusy .unsigned .w8 5 []).opk = .enc ∧
      (encBusy .unsigned .w8 5 []).sinkAnswers = [] ∧ (encBusy .unsigned .w8 5 []).schedule = []) ∧
    ((withTurns [.host .wait] (decStraddle .signed [])).status.state = .busy ∧
      (withTurns [.host .wait] (decStraddle .signed [])).opk = .dec ∧
      (withTurns [.host .wait] (decStraddle .signed [])).sourceAnswers = [] ∧
      (withTurns [.host .wait] (decStraddle .signed [])).shift.toNat ≤ widthBits .w8 ∧
      (withTurns [.host .wait] (decStraddle .signed [])).schedule = [.host .wait]) := by decide

theorem witness_CommandsEndWithinMaxGroups : Inv (decBusy .signed .w8 [.byte 0x80, .byte 0x80]) ∧
    (decBusy .signed .w8 [.byte 0x80, .byte 0x80]).status.state = .busy ∧
    (decBusy .signed .w8 [.byte 0x80, .byte 0x80]).schedule = [] ∧
    (decBusy .signed .w8 [.byte 0x80, .byte 0x80]).opk = .dec ∧
    maxGroups .w8 ≤ (decBusy .signed .w8 [.byte 0x80, .byte 0x80]).sourceAnswers.length :=
  ⟨witness_inv_decBusy _ _ _, by decide, by decide, by decide, by decide⟩

theorem witness_SharedStreamsAreRefused :
    ((withTurns [.outsideWrite 1] (encBusy .unsigned .w8 5 [])).schedule = .outsideWrite 1 :: [] ∧
      Running .enc (withTurns [.outsideWrite 1] (encBusy .unsigned .w8 5 []))) ∧
    ((withTurns [.outsideRead] (decBusy .unsigned .w8 [])).schedule = .outsideRead :: [] ∧
      Running .dec (withTurns [.outsideRead] (decBusy .unsigned .w8 []))) ∧
    ((withTurns [.host (.attachSink [] [])] fresh).schedule = .host (.attachSink [] []) :: [] ∧
      ¬ Running .enc (withTurns [.host (.attachSink [] [])] fresh)) ∧
    ((withTurns [.host (.attachSource [])] fresh).schedule = .host (.attachSource []) :: [] ∧
      ¬ Running .dec (withTurns [.host (.attachSource [])] fresh)) := by decide

theorem witness_InstancesShareNothing :
    ({ blocks := [fresh, decBusy .unsigned .w8 [.byte 0x05]] } : System).blocks[1]? =
      some (decBusy .unsigned .w8 [.byte 0x05]) := by decide

theorem witness_EveryStepKeepsTheInvariant : Inv (decStraddle .unsigned [.byte 0x01]) ∧
    step (decStraddle .unsigned [.byte 0x01]) = .next (codecTurn (decStraddle .unsigned [.byte 0x01])) :=
  ⟨(witness_inv_decLate _ _).1, rfl⟩

end Sys2Proof.Tests
end

section
/-! PROOF. The command tables beside `exec`, what a step can do, and the host registers. -/

namespace Sys2Proof.Machine

open Sys2Proof.Claims

/-! ### Command words and the command tables -/

theorem decode_encode (i : Instr) : decode (encode i) = .ok i := by
  cases i <;> rfl

/-- `Legal(c)` is what the decoder accepts (R66). -/
theorem legalWord_eq_isOk (c : Byte) : legalWord c = (decode c).isOk := by
  revert c; decide

theorem legalWord_of_ok {c : Byte} {i : Instr} (h : decode c = .ok i) : legalWord c = true := by
  rw [legalWord_eq_isOk, h]; rfl

theorem legalWord_of_error {c : Byte} {e : IllegalWord} (h : decode c = .error e) :
    legalWord c = false := by
  rw [legalWord_eq_isOk, h]; rfl

/-- Each row of the ENC table is an acceptance step with the row's signedness and width (R83 to R94). -/
theorem exec_of_mem_encTable {row : Instr × Signedness × WidthSel} (h : row ∈ encTable) (s : State) :
    exec row.1 s = acceptCommand .enc row.2.1 (widthOf s.ptrWidth row.2.2) s := by
  simp only [encTable, List.mem_cons, List.not_mem_nil, or_false] at h
  rcases h with rfl | rfl | rfl | rfl | rfl | rfl | rfl | rfl | rfl | rfl | rfl | rfl <;> rfl

/-- Each row of the DEC table is an acceptance step with the row's signedness and width (R108 to R119). -/
theorem exec_of_mem_decTable {row : Instr × Signedness × WidthSel} (h : row ∈ decTable) (s : State) :
    exec row.1 s = acceptCommand .dec row.2.1 (widthOf s.ptrWidth row.2.2) s := by
  simp only [decTable, List.mem_cons, List.not_mem_nil, or_false] at h
  rcases h with rfl | rfl | rfl | rfl | rfl | rfl | rfl | rfl | rfl | rfl | rfl | rfl <;> rfl

theorem commandRequest_ok {c : Byte} {i : Instr} (h : decode c = .ok i) (s : State) :
    commandRequest c s = exec i s := by
  simp [commandRequest, h]

theorem commandRequest_error {c : Byte} {e : IllegalWord} (h : decode c = .error e) (s : State) :
    commandRequest c s = .next (rejectWord s) := by
  simp [commandRequest, h]

/-! ### Steps by their turn -/

theorem step_request {s : State} {v : Value} {rest : List Turn}
    (h : s.schedule = .host (.write 0 v) :: rest) :
    step s = commandRequest (commandWord v) { s with schedule := rest } := by
  rw [step_cons h]; rfl

theorem step_write {s : State} {r : RegNum} {v : Value} {rest : List Turn}
    (h : s.schedule = .host (.write r v) :: rest) (hr : r ≠ 0) :
    step s = .next (hostWriteData r v { s with schedule := rest }) := by
  simp only [step_cons h, takeTurn, hostTurn, hostWrite, if_neg hr]

theorem step_read {s : State} {r : RegNum} {rest : List Turn} (h : s.schedule = .host (.read r) :: rest) :
    step s = .next (hostRead r { s with schedule := rest }) := by
  rw [step_cons h]; rfl

theorem commandWord_setWidth (c : Byte) : commandWord (c.setWidth 128) = c := by
  simp [commandWord]

/-- A placed table word is a command request in the state it was placed in. -/
theorem step_withFetchWord (s : State) (c : Byte) :
    step (s.withFetchWord 8 c.toNat) = commandRequest c s := by
  have hc : BitVec.ofNat 8 (c.toNat % 2 ^ 8) = c := BitVec.eq_of_toNat_eq (by simp [c.isLt])
  rw [State.withFetchWord, hc, step_request (placeCommand_schedule c s), commandWord_setWidth]
  rfl

/-- Taking a turn off the schedule is itself no more than an update of the environment. -/
theorem EnvironmentUpdate.of_schedule {s t : State} {rest : List Turn}
    (h : EnvironmentUpdate { s with schedule := rest } t) : EnvironmentUpdate s t := h

/-- All the next states of a step, by whose turn it is. -/
theorem step_next {s t : State} (h : step s = .next t) :
    (∃ turns, CodecsTurn s turns ∧ t = codecTurn { s with schedule := turns }) ∨
    (∃ v rest, s.schedule = .host (.write 0 v) :: rest ∧
      commandRequest (commandWord v) { s with schedule := rest } = .next t) ∨
    (∃ rest, s.schedule = .host .reset :: rest ∧ t = resetBlock { s with schedule := rest }) ∨
    EnvironmentUpdate s t := by
  match hs : s.schedule with
  | [] =>
    rw [step_nil hs] at h
    cases h
    exact .inl ⟨[], .inr ⟨hs, rfl⟩, by rw [← hs]⟩
  | turn :: rest =>
    rw [step_cons hs] at h
    rcases takeTurn_next h with ⟨rfl, rfl⟩ | ⟨v, rfl, hv⟩ | ⟨rfl, rfl⟩ | hu
    · exact .inl ⟨rest, .inl hs, rfl⟩
    · exact .inr (.inl ⟨v, rest, rfl, hv⟩)
    · exact .inr (.inr (.inl ⟨rest, rfl, rfl⟩))
    · exact .inr (.inr (.inr hu.of_schedule))

/-! ### Acceptance, with the register writes written out (R20) -/

/-- The W-bit pattern taken from OPERAND, as a number. -/
theorem accOf_operandPattern (w : Width) (v : Value) :
    accOf (operandPattern (widthBits w) v) = BitVec.ofNat 128 (v.toNat % 2 ^ widthBits w) :=
  BitVec.eq_of_toNat_eq (by simp [accOf, operandPattern])

theorem latchCommand_enc (g : Signedness) (w : Width) (v : Value) (s : State) :
    latchCommand .enc g w v s = { s with
      status := { state := .busy, err := .ok, rvalid := false }
      count := 0, lastb := 0, opk := .enc, sgn := g, wid := w
      acc := BitVec.ofNat 128 (v.toNat % 2 ^ widthBits w), shift := 0 } := by
  rw [← accOf_operandPattern]; rfl

/-! ### Host reads -/

/-- Only OPERAND before its first write and RESULT while RVALID = 0 hold no value (R37, R38). -/
theorem readRegister_error {r : RegNum} {s : State} {f : RecordedFault}
    (h : readRegister r s = .error f) :
    (r = 5 ∧ s.status.rvalid = false) ∨ (r = 4 ∧ s.operandWritten = false) := by
  unfold readRegister at h
  split at h
  case h_5 hr =>
    split at h
    · cases h
    · next ho => exact .inr ⟨BitVec.eq_of_toNat_eq hr, by simpa using ho⟩
  case h_6 hr =>
    split at h
    · cases h
    · next hv => exact .inl ⟨BitVec.eq_of_toNat_eq hr, by simpa using hv⟩
  all_goals cases h

theorem readRegister_unassigned {r : RegNum} (hr : 6 ≤ r.toNat) (s : State) :
    readRegister r s = .ok 0 := by
  unfold readRegister
  split
  case h_7 => rfl
  all_goals omega

theorem hostRead_of_ok {r : RegNum} {s : State} {v : Value} (h : readRegister r s = .ok v) :
    hostRead r s = { s with readData := v } := by
  simp [hostRead, h]

theorem hostRead_of_error {r : RegNum} {s : State} {f : RecordedFault}
    (h : readRegister r s = .error f) :
    hostRead r s = recordFault f { s with readData := unspecifiedValue s } := by
  simp [hostRead, h]

/-- A step that reads a register with a value hands that value to the host and changes nothing else (R54). -/
theorem step_read_ok {s : State} {r : RegNum} {rest : List Turn} {v : Value}
    (h : s.schedule = .host (.read r) :: rest)
    (hv : readRegister r { s with schedule := rest } = .ok v) :
    step s = .next { s with schedule := rest, readData := v } := by
  rw [step_read h, hostRead_of_ok hv]

/-- A step that reads a register without a value records the fault and draws the value it hands out (R37, R38). -/
theorem step_read_error {s : State} {r : RegNum} {rest : List Turn} {f : RecordedFault}
    (h : s.schedule = .host (.read r) :: rest)
    (hv : readRegister r { s with schedule := rest } = .error f) :
    step s = .next { s with
      schedule := rest, readData := unspecifiedValue s
      draws := s.draws + 1, faults := s.faults ++ [f] } := by
  rw [step_read h, hostRead_of_error hv]; rfl

/-! ### STATUS -/

theorem status_word_of_inv {s : State} (h : Inv s) : s.status.word ∈ StatusValues := by
  obtain ⟨⟨hErr, hValid, -⟩, -⟩ := h
  generalize s.status = st at *
  obtain ⟨state, err, rvalid⟩ := st
  cases rvalid
  case true =>
    obtain ⟨hs, he, -⟩ := hValid rfl
    dsimp only at hs he
    subst hs he
    decide
  case false =>
    cases state
    case done => cases err <;> decide
    all_goals
      have he : err = .ok := hErr (by simp)
      subst he
      decide

theorem inv_reset : Inv State.reset := by
  refine ⟨⟨?_, ?_, ?_⟩, ⟨?_, ?_, ?_⟩, ?_, ?_, ?_, ?_⟩ <;> simp [State.reset]

end Sys2Proof.Machine
end

section
/-! PROOF. The tier 1 statements on host registers and acceptance. -/

namespace Sys2Proof.Proofs

open Sys2Proof.Machine Sys2Proof.Claims

/-- Settles O4: a request with a legal word is exec of its command, and the placed word decodes to the command. -/
theorem stepRunsTheRequestedCommand : Obligations.StepRunsTheRequestedCommand := by
  refine ⟨fun s c rest i ⟨v, hc, hs⟩ hd => ?_, fun s i => ?_⟩
  · subst hc
    rw [step_request hs, commandRequest_ok hd]
  · rw [step_withFetchWord, commandRequest_ok (decode_encode i)]

/-- Settles O5: the row's acceptance step latches the command, with OPERAND's pattern in ACC. -/
theorem encCommandsAreAccepted : Obligations.EncCommandsAreAccepted := by
  intro row hrow s hb ho
  rw [exec_of_mem_encTable hrow, acceptCommand_latches _ _ _ hb fun _ => ho, latchCommand_enc]

/-- Settles O6: the row's acceptance step latches the command, which reads no OPERAND. -/
theorem decCommandsAreAccepted : Obligations.DecCommandsAreAccepted := by
  intro row hrow s hb
  rw [exec_of_mem_decTable hrow, acceptCommand_latches _ _ _ hb (by simp)]
  rfl

/-- Settles O9: the value used is the next draw, which does not look at the register. -/
theorem registersWithoutValueFault : Obligations.RegistersWithoutValueFault := by
  refine ⟨fun s rest hs hv => ⟨unspecifiedValue s, fun stale => ?_⟩,
    fun s rest hs ho => ⟨unspecifiedValue s, fun stale => ?_⟩,
    fun row hrow s hb ho => ⟨unspecifiedValue s, fun stale => ?_⟩⟩
  · exact step_read_error (s := { s with result := stale }) hs (by simp [readRegister, hv])
  · exact step_read_error (s := { s with operand := stale }) hs (by simp [readRegister, ho])
  · rw [exec_of_mem_encTable hrow, acceptCommand_unwritten (s := { s with operand := stale }) _ _ hb ho,
      latchCommand_enc]
    rfl

/-- Settles O14: the layout field by field; the seven values by the invariant on STATUS. -/
theorem statusLayout : Obligations.StatusLayout := by
  refine ⟨fun st => ?_, fun s => status_word_of_inv⟩
  obtain ⟨state, err, rvalid⟩ := st
  cases state <;> cases err <;> cases rvalid <;> decide

/-- Settles O15: each register number by what `readRegister` gives there. -/
theorem hostReadsReturnTheRegisters : Obligations.HostReadsReturnTheRegisters := by
  intro s r rest hs
  refine ⟨fun hr => ?_, fun hr => ?_, fun hr => ?_, fun hr => ?_, fun hr ho => ?_, fun hr hv => ?_,
    fun hr => step_read_ok hs (readRegister_unassigned hr _)⟩
  all_goals exact step_read_ok hs (by simp [readRegister, *])

/-- Settles O16: a write to any number but 0 goes to the data registers, of which only number 4 takes it. -/
theorem hostWritesReachOnlyOperand : Obligations.HostWritesReachOnlyOperand := by
  intro s r v rest hs
  refine ⟨fun h4 => ?_, fun h0 h4 => ?_⟩
  · obtain rfl : r = 4 := BitVec.eq_of_toNat_eq h4
    rw [step_write hs (by decide)]
    rfl
  · have hr0 : r ≠ 0 := by rintro rfl; exact h0 rfl
    have hr4 : r ≠ 4 := by rintro rfl; exact h4 rfl
    rw [step_write hs hr0, hostWriteData, if_neg hr4]

/-- Settles O40: the reset state evaluated. -/
theorem resetValues : Obligations.ResetValues :=
  ⟨by decide, rfl, rfl, rfl, rfl, rfl, rfl, rfl, rfl⟩

/-- Settles O47: with no command running and RVALID 0 only the empty counts are left to see. -/
theorem invariantAtReset : Obligations.InvariantAtReset := inv_reset

end Sys2Proof.Proofs
end

section
/-! PROOF. What a codec step, a command request and a step of the environment leave unchanged. -/

namespace Sys2Proof.Machine

open Sys2Proof.Claims

/-! ### A codec step -/

/-- A byte taken from the source is counted once and stands in LASTB; else only STATUS, ACC, SHIFT and RESULT can
change. -/
theorem takeByte_update (b : Byte) (s : State) : ∃ status acc shift result, takeByte b s =
    { s with count := s.count + 1, lastb := b, status := status, acc := acc, shift := shift, result := result } := by
  rcases takeByte_cases b s with ⟨-, -, h⟩ | ⟨-, -, h⟩ | ⟨-, -, h⟩
  · exact ⟨_, _, _, _, h⟩
  · exact ⟨_, _, _, _, h⟩
  · rw [h]
    rcases finalize_cases (payload b) (mergeGroup (payload b) (countByte b s)) with ⟨-, -, hf⟩ | ⟨-, hf⟩
    · exact ⟨_, _, _, _, hf⟩
    · exact ⟨_, _, _, _, hf⟩

/-- A byte taken from the source ends the command with Overflow or with a result, or the command goes on. -/
theorem takeByte_completion (b : Byte) (s : State) :
    ((takeByte b s).status = s.status ∧ (takeByte b s).result = s.result) ∨
    ((takeByte b s).status = { state := .done, err := .overflow, rvalid := false } ∧
      (takeByte b s).result = s.result) ∨
    (takeByte b s).status = { state := .done, err := .ok, rvalid := true } := by
  rcases takeByte_cases b s with ⟨-, -, h⟩ | ⟨-, -, h⟩ | ⟨-, -, h⟩ <;> rw [h]
  · exact .inr (.inl ⟨rfl, rfl⟩)
  · exact .inl ⟨rfl, rfl⟩
  · rcases finalize_cases (payload b) (mergeGroup (payload b) (countByte b s)) with ⟨-, -, hf⟩ | ⟨-, hf⟩ <;> rw [hf]
    · exact .inr (.inl ⟨rfl, rfl⟩)
    · exact .inr (.inr rfl)

/-- What an ENC step can change: no register but STATUS, COUNT, LASTB and ACC, and nothing of the source. -/
theorem encStep_update {s t : State} (h : encStep s = some t) :
    ∃ status count lastb acc sink handed sinkAnswers draws, t = { s with
      status := status, count := count, lastb := lastb, acc := acc
      sink := sink, handed := handed, sinkAnswers := sinkAnswers, draws := draws } := by
  rcases encStep_cases h with ⟨rest, -, rfl⟩ | ⟨rest, -, -, rfl⟩ | ⟨rest, -, -, rfl⟩
  · exact ⟨_, _, _, _, _, _, _, _, rfl⟩
  · exact ⟨_, _, _, _, _, _, _, _, rfl⟩
  · exact ⟨_, _, _, _, _, _, _, _, rfl⟩

/-- What a DEC step can change: no register but STATUS, COUNT, LASTB, ACC, SHIFT and RESULT, and nothing of the sink. -/
theorem decStep_update {s t : State} (h : decStep s = some t) :
    ∃ status count lastb acc shift result sourceAnswers, t = { s with
      status := status, count := count, lastb := lastb, acc := acc, shift := shift, result := result
      sourceAnswers := sourceAnswers } := by
  rcases decStep_cases h with ⟨-, rfl⟩ | ⟨-, rest, -, rfl⟩ | ⟨-, b, rest, -, rfl⟩
  · exact ⟨_, _, _, _, _, _, _, rfl⟩
  · exact ⟨_, _, _, _, _, _, _, rfl⟩
  · obtain ⟨st, acc, shift, result, ht⟩ := takeByte_update b { s with sourceAnswers := rest }
    exact ⟨_, _, _, _, _, _, _, ht⟩

/-- A codec step leaves STATUS and RESULT, or ends the command without a result, or ends a DEC command with one. -/
theorem codecStep_completion {s t : State} (h : codecStep s = some t) :
    (t.status = s.status ∧ t.result = s.result) ∨
    (t.status.state = .done ∧ t.status.rvalid = false ∧ t.result = s.result) ∨
    (s.opk = .dec ∧ t.status = { state := .done, err := .ok, rvalid := true }) := by
  obtain ⟨-, ⟨-, he⟩ | ⟨ho, hd⟩⟩ := codecStep_cases h
  · rcases encStep_cases he with ⟨rest, -, rfl⟩ | ⟨rest, -, -, rfl⟩ | ⟨rest, -, -, rfl⟩
    · exact .inr (.inl ⟨rfl, rfl, rfl⟩)
    · exact .inr (.inl ⟨rfl, rfl, rfl⟩)
    · exact .inl ⟨rfl, rfl⟩
  · rcases decStep_cases hd with ⟨-, rfl⟩ | ⟨-, rest, -, rfl⟩ | ⟨-, b, rest, -, rfl⟩
    · exact .inr (.inl ⟨rfl, rfl, rfl⟩)
    · exact .inr (.inl ⟨rfl, rfl, rfl⟩)
    · rcases takeByte_completion b { s with sourceAnswers := rest } with hk | ⟨hst, hr⟩ | hst
      · exact .inl hk
      · exact .inr (.inl ⟨by rw [hst], by rw [hst], hr⟩)
      · exact .inr (.inr ⟨ho, hst⟩)

/-- What a codec's turn can change (R29, R32, R40). -/
theorem codecTurn_update (s : State) :
    ∃ status count lastb acc shift result sink handed sinkAnswers sourceAnswers draws, codecTurn s = { s with
      status := status, count := count, lastb := lastb, acc := acc, shift := shift, result := result
      sink := sink, handed := handed, sinkAnswers := sinkAnswers, sourceAnswers := sourceAnswers
      draws := draws } := by
  rcases codecTurn_cases s with h | h
  · obtain ⟨-, ⟨-, he⟩ | ⟨-, hd⟩⟩ := codecStep_cases h
    · obtain ⟨_, _, _, _, _, _, _, _, ht⟩ := encStep_update he
      exact ⟨_, _, _, _, _, _, _, _, _, _, _, ht⟩
    · obtain ⟨_, _, _, _, _, _, _, ht⟩ := decStep_update hd
      exact ⟨_, _, _, _, _, _, _, _, _, _, _, ht⟩
  · exact ⟨_, _, _, _, _, _, _, _, _, _, _, h⟩

@[simp] theorem codecTurn_faults (s : State) : (codecTurn s).faults = s.faults := by
  obtain ⟨_, _, _, _, _, _, _, _, _, _, _, ht⟩ := codecTurn_update s
  rw [ht]

theorem codecTurn_opk_sgn_wid (s : State) :
    (codecTurn s).opk = s.opk ∧ (codecTurn s).sgn = s.sgn ∧ (codecTurn s).wid = s.wid := by
  obtain ⟨_, _, _, _, _, _, _, _, _, _, _, ht⟩ := codecTurn_update s
  rw [ht]
  exact ⟨rfl, rfl, rfl⟩

/-- The codec's turn leaves STATUS and RESULT, unless it ends the running command. -/
theorem codecTurn_completion (s : State) :
    ((codecTurn s).status = s.status ∧ (codecTurn s).result = s.result) ∨
    (s.status.state = .busy ∧ (codecTurn s).status.state = .done ∧ (codecTurn s).result = s.result) ∨
    (Running .dec s ∧ (codecTurn s).status = { state := .done, err := .ok, rvalid := true }) := by
  rcases codecTurn_cases s with h | h
  · have hb := (codecStep_cases h).1
    rcases codecStep_completion h with hk | ⟨hd, -, hr⟩ | ⟨ho, hst⟩
    · exact .inl hk
    · exact .inr (.inl ⟨hb, hd, hr⟩)
    · exact .inr (.inr ⟨⟨hb, ho⟩, hst⟩)
  · exact .inl ⟨by rw [h], by rw [h]⟩

/-! ### The environment -/

/-- The host's accesses and the environment's moves reach no register a command works on (R26, R54). -/
theorem EnvironmentUpdate.registers {s t : State} (h : EnvironmentUpdate s t) :
    t.status = s.status ∧ t.result = s.result ∧ t.opk = s.opk ∧ t.sgn = s.sgn ∧ t.wid = s.wid := by
  obtain ⟨_, _, _, _, _, _, _, _, _, _, rfl, -⟩ := h
  exact ⟨rfl, rfl, rfl, rfl, rfl⟩

theorem EnvironmentUpdate.faults_le {s t : State} (h : EnvironmentUpdate s t) : s.faults <+: t.faults := by
  obtain ⟨_, _, _, _, _, _, _, _, _, _, rfl, hf, -⟩ := h
  exact hf

/-! ### A command request -/

/-- Every command is an acceptance step of the unit in whose table it stands. -/
theorem exec_acceptance_of_unit (i : Instr) (s : State) : ∃ u g w, exec i s = acceptCommand u g w s ∧
    (u = .enc ↔ ∃ row ∈ encTable, row.1 = i) ∧ (u = .dec ↔ ∃ row ∈ decTable, row.1 = i) := by
  cases i
  all_goals exact ⟨_, _, _, rfl, by decide, by decide⟩

/-- A command records a fault only as an ENC command accepted before OPERAND's first write (R38). -/
theorem exec_faults {i : Instr} {s t : State} (h : exec i s = .next t) (hf : t.faults ≠ s.faults) :
    s.status.state ≠ .busy ∧ s.operandWritten = false ∧ ∃ row ∈ encTable, row.1 = i := by
  obtain ⟨u, g, w, hx, henc, -⟩ := exec_acceptance_of_unit i s
  rw [hx] at h
  rcases acceptCommand_cases u g w s with ⟨-, ha⟩ | ⟨hb, hu, ho, -⟩ | ⟨-, -, ha⟩
  · rw [ha] at h; cases h; exact absurd rfl hf
  · exact ⟨hb, ho, henc.1 hu⟩
  · rw [ha] at h; cases h; exact absurd rfl hf

@[simp] theorem rejectWord_faults (s : State) : (rejectWord s).faults = s.faults := by
  rcases rejectWord_cases s with ⟨-, h⟩ | ⟨-, h⟩ <;> rw [h]
  rfl

theorem commandRequest_faults {c : Byte} {s t : State} (h : commandRequest c s = .next t)
    (hf : t.faults ≠ s.faults) :
    s.status.state ≠ .busy ∧ s.operandWritten = false ∧ ∃ row ∈ encTable, decode c = .ok row.1 := by
  match hd : decode c with
  | .ok i =>
    rw [commandRequest_ok hd] at h
    obtain ⟨hb, ho, row, hrow, rfl⟩ := exec_faults h hf
    exact ⟨hb, ho, row, hrow, rfl⟩
  | .error e =>
    rw [commandRequest_error hd] at h
    cases h
    exact absurd (rejectWord_faults s) hf

theorem commandRequest_faults_le {c : Byte} {s t : State} (h : commandRequest c s = .next t) :
    s.faults <+: t.faults := by
  rcases commandRequest_next h with ⟨-, rfl⟩ | ⟨-, rfl, -⟩ | ⟨-, i, u, g, v, -, rfl | rfl⟩
  · exact List.prefix_refl _
  · exact List.prefix_refl _
  · exact List.prefix_refl _
  · exact List.prefix_append _ _

theorem commandRequest_result {c : Byte} {s t : State} (h : commandRequest c s = .next t) :
    t.result = s.result := by
  rcases commandRequest_next h with ⟨-, rfl⟩ | ⟨-, rfl, -⟩ | ⟨-, i, u, g, v, -, rfl | rfl⟩ <;> rfl

/-- A running command drops every request (R146). -/
theorem commandRequest_busy {c : Byte} {s t : State} (hb : s.status.state = .busy)
    (h : commandRequest c s = .next t) : t = s := by
  rcases commandRequest_next h with ⟨-, rfl⟩ | ⟨hn, -⟩ | ⟨hn, -⟩
  · rfl
  · exact absurd hb hn
  · exact absurd hb hn

/-- STATUS after a request that is not dropped: BUSY for a legal word, ILLEGAL_CMD for any other (R20, R124). -/
theorem commandRequest_status {c : Byte} {s t : State} (hb : s.status.state ≠ .busy)
    (h : commandRequest c s = .next t) :
    (legalWord c = true ∧ t.status.state = .busy) ∨
    (legalWord c = false ∧ t.status.state = .done ∧ t.status.err = .illegalCmd) := by
  rcases commandRequest_next h with ⟨hy, -⟩ | ⟨-, rfl, e, hd⟩ | ⟨-, i, u, g, v, hd, rfl | rfl⟩
  · exact absurd hy hb
  · exact .inr ⟨legalWord_of_error hd, rfl, rfl⟩
  · exact .inl ⟨legalWord_of_ok hd, rfl⟩
  · exact .inl ⟨legalWord_of_ok hd, rfl⟩

/-! ### Recorded faults -/

theorem hostRead_faults {r : RegNum} {s : State} (h : (hostRead r s).faults ≠ s.faults) :
    ∃ f, readRegister r s = .error f := by
  rcases hostRead_cases r s with ⟨v, -, hr⟩ | ⟨f, hf, -⟩
  · rw [hr] at h; exact absurd rfl h
  · exact ⟨f, hf⟩

/-- Only a host read and a command request can record a fault (R37, R38). -/
theorem takeTurn_faults {turn : Turn} {s t : State} (h : takeTurn turn s = .next t) (hf : t.faults ≠ s.faults) :
    (∃ r f, turn = .host (.read r) ∧ readRegister r s = .error f) ∨
    (∃ v, turn = .host (.write 0 v) ∧ commandRequest (commandWord v) s = .next t) := by
  match turn, h with
  | .host (.read r), h =>
    cases h
    obtain ⟨f, hr⟩ := hostRead_faults hf
    exact .inl ⟨r, f, rfl, hr⟩
  | .host (.write r v), h =>
    by_cases hr : r = 0
    · subst hr
      exact .inr ⟨v, rfl, h⟩
    · simp only [takeTurn, hostTurn, hostWrite, if_neg hr] at h
      cases h
      rcases hostWriteData_cases r v s with hw | hw <;> rw [hw] at hf <;> exact absurd rfl hf
  | .codec, h => cases h; exact absurd (codecTurn_faults s) hf
  | .host .wait, h => cases h; exact absurd rfl hf
  | .host .reset, h => cases h; exact absurd rfl hf
  | .host (.attachSink held answers), h =>
    simp only [takeTurn, hostTurn, attachSink] at h
    split at h <;> cases h
    exact absurd rfl hf
  | .host (.attachSource answers), h =>
    simp only [takeTurn, hostTurn, attachSource] at h
    split at h <;> cases h
    exact absurd rfl hf
  | .outsideWrite b, h =>
    simp only [takeTurn, outsideWrite] at h
    split at h <;> cases h
    exact absurd rfl hf
  | .outsideRead, h =>
    simp only [takeTurn, outsideRead] at h
    split at h <;> cases h
    exact absurd rfl hf

theorem step_faults {s t : State} (h : step s = .next t) : s.faults <+: t.faults := by
  rcases step_next h with ⟨turns, -, rfl⟩ | ⟨v, rest, -, hv⟩ | ⟨rest, -, rfl⟩ | hu
  · simp
  · exact commandRequest_faults_le (s := { s with schedule := rest }) hv
  · exact List.prefix_refl _
  · exact hu.faults_le

theorem steps_succ_next {n : Nat} {s t : State} (h : steps (n + 1) s = .next t) :
    ∃ m, step s = .next m ∧ steps n m = .next t := by
  unfold steps at h
  split at h
  · next m hm => exact ⟨m, hm, h⟩
  · cases h
  · cases h

theorem steps_faults {n : Nat} {s t : State} (h : steps n s = .next t) : s.faults <+: t.faults := by
  induction n generalizing s with
  | zero => cases h; exact List.prefix_refl _
  | succ n ih =>
    obtain ⟨m, hm, hn⟩ := steps_succ_next h
    exact (step_faults hm).trans (ih hn)

end Sys2Proof.Machine
end

section
/-! PROOF. The statements on transitions, frames and recorded faults. -/

namespace Sys2Proof.Proofs

open Sys2Proof.Machine Sys2Proof.Claims

/-- Settles O10: no turn takes a fault out, and the turns that add one are a host read of a register without a value and
an ENC command accepted before OPERAND's first write. -/
theorem recordedFaultsStay : Obligations.RecordedFaultsStay := by
  refine ⟨fun s t h => step_faults h, fun s t n hs h hfin => ?_, fun s t h hf => ?_⟩
  · obtain ⟨-, -, ht⟩ := hfin
    exact hs (List.prefix_nil.1 (ht ▸ steps_faults h))
  · match hs : s.schedule with
    | [] =>
      rw [step_nil hs] at h
      cases h
      exact absurd (codecTurn_faults s) hf
    | turn :: rest =>
      rw [step_cons hs] at h
      rcases takeTurn_faults h hf with ⟨r, f, rfl, hr⟩ | ⟨v, rfl, hv⟩
      · rcases readRegister_error hr with ⟨rfl, hv⟩ | ⟨rfl, ho⟩
        · exact .inl ⟨rest, rfl, hv⟩
        · exact .inr (.inl ⟨rest, rfl, ho⟩)
      · obtain ⟨hb, ho, hrow⟩ := commandRequest_faults hv hf
        exact .inr (.inr ⟨commandWord v, rest, ⟨v, rfl, hs⟩, hb, ho, hrow⟩)

/-- Settles O13, by the three answers of an acceptance step. -/
theorem acceptanceFrame : Obligations.AcceptanceFrame := by
  intro i s t h
  obtain ⟨u, g, w, hx, -, hdec⟩ := exec_acceptance_of_unit i s
  rw [hx] at h
  rcases acceptCommand_cases u g w s with ⟨-, ha⟩ | ⟨-, hu, ho, ha⟩ | ⟨-, -, ha⟩ <;> rw [ha] at h <;> cases h
  · simp
  · have hno : ¬ (s.operandWritten = true ∨ ∃ row ∈ decTable, row.1 = i) := by
      rw [← hdec, ho, hu]; simp
    exact ⟨rfl, rfl, rfl, rfl, rfl, rfl, rfl, rfl, rfl, rfl, fun hw => absurd hw hno, .inr rfl⟩
  · exact ⟨rfl, rfl, rfl, rfl, rfl, rfl, rfl, rfl, rfl, rfl, fun _ => ⟨rfl, rfl⟩, .inl rfl⟩

/-- Settles O33, by whose turn the step is. -/
theorem stateTransitions : Obligations.StateTransitions := by
  intro s t h
  rcases step_next h with ⟨turns, ht, rfl⟩ | ⟨v, rest, hs, hv⟩ | ⟨rest, hs, rfl⟩ | hu
  · rcases codecTurn_completion { s with schedule := turns } with ⟨hk, -⟩ | ⟨hb, hd, -⟩ | ⟨⟨hb, -⟩, hst⟩
    · exact .inl (by rw [hk])
    · exact .inr (.inr (.inr (.inl ⟨hb, hd, turns, ht⟩)))
    · exact .inr (.inr (.inr (.inl ⟨hb, by rw [hst], turns, ht⟩)))
  · by_cases hb : s.status.state = .busy
    · exact .inl (by rw [commandRequest_busy (s := { s with schedule := rest }) hb hv])
    · have hreq : Requests s (commandWord v) rest := ⟨v, rfl, hs⟩
      rcases commandRequest_status (s := { s with schedule := rest }) hb hv with ⟨hl, hy⟩ | ⟨hl, hd, he⟩
      · exact .inr (.inl ⟨hb, hy, _, rest, hreq, hl⟩)
      · match hst : s.status.state with
        | .idle => exact .inr (.inr (.inl ⟨rfl, hd, he, _, rest, hreq, hl⟩))
        | .busy => exact absurd hst hb
        | .done => exact .inl hd
  · exact .inr (.inr (.inr (.inr ⟨rfl, rest, hs⟩)))
  · exact .inl (by rw [hu.registers.1])

/-- Settles O34: of all turns only a codec's that ends a DEC command, and a reset, write RESULT. -/
theorem onlySuccessfulDecWritesResult : Obligations.OnlySuccessfulDecWritesResult := by
  intro s t h hr
  rcases step_next h with ⟨turns, -, rfl⟩ | ⟨v, rest, -, hv⟩ | ⟨rest, hs, rfl⟩ | hu
  · rcases codecTurn_completion { s with schedule := turns } with ⟨-, hk⟩ | ⟨-, -, hk⟩ | hd
    · exact absurd hk hr
    · exact absurd hk hr
    · exact .inl hd
  · exact absurd (commandRequest_result hv) hr
  · exact .inr ⟨rfl, rest, hs⟩
  · obtain ⟨-, hk, -⟩ := hu.registers
    exact absurd hk hr

/-- Settles O35, by whose turn the step is. -/
theorem statusChangesOnlyByRequestCompletionOrReset :
    Obligations.StatusChangesOnlyByRequestCompletionOrReset := by
  intro s t h hst
  rcases step_next h with ⟨turns, ht, rfl⟩ | ⟨v, rest, hs, hv⟩ | ⟨rest, hs, -⟩ | hu
  · rcases codecTurn_completion { s with schedule := turns } with ⟨hk, -⟩ | ⟨hb, hd, -⟩ | ⟨⟨hb, -⟩, hok⟩
    · exact absurd hk hst
    · exact .inr (.inl ⟨hb, hd, turns, ht⟩)
    · exact .inr (.inl ⟨hb, by rw [hok], turns, ht⟩)
  · refine .inl ⟨fun hb => hst ?_, commandWord v, rest, v, rfl, hs⟩
    rw [commandRequest_busy (s := { s with schedule := rest }) hb hv]
  · exact .inr (.inr ⟨rest, hs⟩)
  · exact absurd hu.registers.1 hst

/-- Settles O36: only an acceptance and a reset write these registers, and a request while BUSY is dropped. -/
theorem widthAndSignednessAreFixed : Obligations.WidthAndSignednessAreFixed := by
  intro s t hb h hreset
  rcases step_next h with ⟨turns, -, rfl⟩ | ⟨v, rest, -, hv⟩ | ⟨rest, hs, -⟩ | hu
  · exact codecTurn_opk_sgn_wid { s with schedule := turns }
  · rw [commandRequest_busy (s := { s with schedule := rest }) hb hv]
    exact ⟨rfl, rfl, rfl⟩
  · exact absurd hs (hreset rest)
  · obtain ⟨-, -, hregs⟩ := hu.registers
    exact hregs

/-- Settles O37, by the stream's answer. -/
theorem oneByteAStep : Obligations.OneByteAStep := by
  intro s t h
  obtain ⟨-, ⟨ho, he⟩ | ⟨ho, hd⟩⟩ := codecStep_cases h
  · refine ⟨fun _ => ?_, fun hdec => absurd (ho.symm.trans hdec) (by decide)⟩
    rcases encStep_cases he with ⟨rest, hs, rfl⟩ | ⟨rest, hs, -, rfl⟩ | ⟨rest, hs, -, rfl⟩
    · exact ⟨rfl, .inr ⟨rest, hs, rfl, rfl, rfl, rfl, rfl⟩⟩
    · exact ⟨rfl, .inl ⟨encByte s, rest, hs, rfl, rfl, rfl, rfl, rfl⟩⟩
    · exact ⟨rfl, .inl ⟨encByte s, rest, hs, rfl, rfl, rfl, rfl, rfl⟩⟩
  · refine ⟨fun henc => absurd (ho.symm.trans henc) (by decide), fun _ => ?_⟩
    rcases decStep_cases hd with ⟨-, rfl⟩ | ⟨-, rest, hs, rfl⟩ | ⟨-, b, rest, hs, rfl⟩
    · exact ⟨rfl, rfl, rfl, .inr (.inr ⟨rfl, rfl, rfl, rfl⟩)⟩
    · exact ⟨rfl, rfl, rfl, .inr (.inl ⟨rest, hs, rfl, rfl, rfl, rfl⟩)⟩
    · obtain ⟨_, _, _, _, ht⟩ := takeByte_update b { s with sourceAnswers := rest }
      rw [ht]
      exact ⟨rfl, rfl, rfl, .inl ⟨b, rest, hs, rfl, rfl, rfl⟩⟩

/-- Settles O38: what each unit's step can change, and how a step can end the command. -/
theorem codecStepFrame : Obligations.CodecStepFrame := by
  intro s t h
  have hgoes : (t.status.state ≠ .done → t.status = s.status ∧ t.result = s.result) ∧
      (t.status.rvalid = false → t.result = s.result) := by
    rcases codecStep_completion h with ⟨hst, hr⟩ | ⟨hd, -, hr⟩ | ⟨-, hst⟩
    · exact ⟨fun _ => ⟨hst, hr⟩, fun _ => hr⟩
    · exact ⟨fun hn => absurd hd hn, fun _ => hr⟩
    · simp [hst]
  obtain ⟨-, ⟨ho, he⟩ | ⟨ho, hd⟩⟩ := codecStep_cases h
  · obtain ⟨_, _, _, _, _, _, _, _, rfl⟩ := encStep_update he
    exact ⟨rfl, rfl, rfl, rfl, rfl, rfl, rfl, rfl, rfl, by simp [ho], fun _ => ⟨rfl, rfl⟩, hgoes⟩
  · obtain ⟨_, _, _, _, _, _, _, rfl⟩ := decStep_update hd
    exact ⟨rfl, rfl, rfl, rfl, rfl, rfl, rfl, rfl, rfl, fun _ => rfl, by simp [ho], hgoes⟩

end Sys2Proof.Proofs
end

section
/-! PROOF. The invariant along every step, and the working registers along the groups of a command (R34, R76, R98). -/

namespace Sys2Proof.Machine

open Sys2Proof.Claims

/-! ### The remaining value of the encoder -/

theorem floor_scaled_le (r : Int) (c : Nat) : r / 128 * 2 ^ (7 * (c + 1)) ≤ r * 2 ^ (7 * c) := by
  have hp : (0 : Int) < 2 ^ (7 * c) := by positivity
  have hr : r / 128 * 128 ≤ r := Int.ediv_mul_le r (by decide)
  calc r / 128 * 2 ^ (7 * (c + 1)) = r / 128 * 128 * 2 ^ (7 * c) := by ring
    _ ≤ r * 2 ^ (7 * c) := by nlinarith

theorem le_floor_scaled {r : Int} {c n : Nat} (hn : 7 * (c + 1) ≤ n) (h : -(2 ^ n) ≤ r * 2 ^ (7 * c)) :
    -(2 ^ n) ≤ r / 128 * 2 ^ (7 * (c + 1)) := by
  obtain ⟨d, rfl⟩ := Nat.exists_eq_add_of_le hn
  have hp : (0 : Int) < 2 ^ (7 * c) := by positivity
  have hr : -(2 ^ d * 128) ≤ r := by
    have e : (2 : Int) ^ (7 * (c + 1) + d) = 2 ^ d * 128 * 2 ^ (7 * c) := by ring
    rw [e] at h
    nlinarith
  have hq : -(2 ^ d) ≤ r / 128 := by omega
  calc -(2 ^ (7 * (c + 1) + d)) = -(2 ^ d) * (2 : Int) ^ (7 * (c + 1)) := by ring
    _ ≤ r / 128 * 2 ^ (7 * (c + 1)) := by gcongr

theorem exponent_lt {k m n : Nat} (h : (2 : Int) ^ k * 2 ^ m < 2 ^ n) : k + m < n := by
  rw [← pow_add] at h
  exact (pow_lt_pow_iff_right₀ (by decide)).1 h

/-- If the remaining value is not final, the next one, scaled by one more group, is still an integer of the width, and a
further group fits. -/
theorem inRange_next {g : Signedness} {w : Width} {r : Int} {c : Nat}
    (h : InRange g w (r * 2 ^ (7 * c))) (hf : lastGroup g r = false) :
    c + 1 < maxGroups w ∧ InRange g w (r / 128 * 2 ^ (7 * (c + 1))) := by
  have hp : (0 : Int) < 2 ^ (7 * c) := by positivity
  have hle := floor_scaled_le r c
  have hW := widthBits_ge w
  rw [← readable_iff w (c + 1)]
  cases g
  case unsigned =>
    obtain ⟨h0, h1⟩ := h
    have hr : 127 < r := by simpa [lastGroup] using hf
    have hlt : 7 + 7 * c < widthBits w := exponent_lt (by nlinarith)
    exact ⟨by omega, mul_nonneg (by omega) (by positivity), hle.trans h1⟩
  case signed =>
    obtain ⟨h0, h1⟩ := h
    have hr : r ≤ -65 ∨ 64 ≤ r := by simp [lastGroup] at hf; omega
    have hlt : 6 + 7 * c < widthBits w - 1 := exponent_lt (by rcases hr with hr | hr <;> nlinarith)
    exact ⟨by omega, le_floor_scaled (by omega) h0, hle.trans h1⟩

/-! ### RESULT -/

/-- Cutting a widened pattern back to its width gives it again. -/
theorem setWidth_widen {W : Nat} (hW : W ≤ 128) (g : Signedness) (v : BitVec W) :
    (widen g v).setWidth W = v := by
  cases g
  · exact accPattern_accOf hW v
  · simp only [widen]
    apply BitVec.eq_of_getLsbD_eq
    intro i hi
    simp [BitVec.getLsbD_signExtend, hi]
    omega

/-! ### The payload merge -/

/-- While ACC holds only bits below SHIFT, the merge is an addition (R98). -/
theorem accOf_merge_toNat (s : State) (p : BitVec 7) {shift : Nat} (h : s.acc.toNat < 2 ^ shift) :
    (accOf (mergePayload s.work p shift)).toNat =
      (s.acc.toNat + p.toNat * 2 ^ shift) % 2 ^ widthBits s.wid := by
  have hor : s.acc.toNat ||| p.toNat * 2 ^ shift = s.acc.toNat + p.toNat * 2 ^ shift := by
    rw [Nat.or_comm, Nat.mul_comm, ← Nat.two_pow_add_eq_or_of_lt h, Nat.add_comm]
  have hlt : (s.acc.toNat + p.toNat * 2 ^ shift) % 2 ^ widthBits s.wid < 2 ^ 128 :=
    lt_of_lt_of_le (Nat.mod_lt _ (by positivity)) (Nat.pow_le_pow_right (by decide) (widthBits_le _))
  rw [accOf_merge, BitVec.toNat_ofNat, ← Nat.or_mod_two_pow, hor, Nat.mod_eq_of_lt hlt]

theorem accOf_merge_lt (s : State) (p : BitVec 7) {shift : Nat} (h : s.acc.toNat < 2 ^ shift) :
    (accOf (mergePayload s.work p shift)).toNat < 2 ^ (shift + 7) := by
  rw [accOf_merge_toNat s p h, pow_add]
  have hp := p.isLt
  have hmod := Nat.mod_le (s.acc.toNat + p.toNat * 2 ^ shift) (2 ^ widthBits s.wid)
  nlinarith

/-! ### Completions keep the invariant -/

/-- A completion without a result, Overflow only of a DEC command (R121 to R124). -/
theorem complete_inv {s : State} {e : ErrCode} (hp : ProgressInv s) (ha : AccInv s)
    (ho : e = .overflow → s.opk = .dec) : Inv (complete e s) := by
  obtain ⟨hc, hl, -⟩ := hp
  exact ⟨⟨fun h => absurd rfl h, nofun, ho⟩, ⟨hc, hl, nofun⟩, ha, nofun, nofun, nofun⟩

/-- The completion of a DEC command with a pattern of its width as result (R30, R121). -/
theorem finishDec_inv {s : State} (v : BitVec (widthBits s.wid)) (hp : ProgressInv s) (ha : AccInv s)
    (ho : s.opk = .dec) : Inv (finishDec (widen s.sgn v) s) := by
  obtain ⟨hc, hl, -⟩ := hp
  refine ⟨⟨fun h => absurd rfl h, fun _ => ⟨rfl, rfl, ho⟩, nofun⟩, ⟨hc, hl, nofun⟩, ha, nofun, nofun, fun _ => ?_⟩
  show widen s.sgn v = widen s.sgn ((widen s.sgn v).setWidth (widthBits s.wid))
  rw [setWidth_widen (widthBits_le _)]

theorem raiseIllegalCmd_inv {s : State} (ha : AccInv s) : Inv (raiseIllegalCmd s) :=
  complete_inv ⟨Nat.zero_le _, fun _ => rfl, fun _ => rfl⟩ ha nofun

/-! ### A counted byte keeps the invariant -/

/-- Below MAXG(W) COUNT does not wrap (R27). -/
theorem count_succ {s : State} (hc : s.count.toNat < maxGroups s.wid) :
    (s.count + 1).toNat = s.count.toNat + 1 := by
  have := maxGroups_le s.wid
  rw [BitVec.toNat_add_of_lt] <;> simp; omega

theorem countByte_progress {s : State} (b : Byte) (hb : s.status.state = .busy)
    (hc : s.count.toNat < maxGroups s.wid) : ProgressInv (countByte b s) := by
  have hs := count_succ hc
  refine ⟨?_, fun h0 => ?_, fun hidle => ?_⟩
  · rw [countByte_count, hs]
    exact hc
  · rw [countByte_count] at h0
    rw [h0] at hs
    exact absurd hs (by simp)
  · exact absurd (hb.symm.trans hidle) (by decide)

/-- An ENC step keeps the invariant. -/
theorem encStep_inv {s t : State} (hi : Inv s) (hr : Running .enc s) (h : encStep s = some t) : Inv t := by
  obtain ⟨hst, hp, ha, henc, -, hres⟩ := hi
  obtain ⟨hb, ho⟩ := hr
  obtain ⟨hsh, hc, hin⟩ := henc hb ho
  have hcount : ∀ b, ProgressInv (countByte b s) := fun b => countByte_progress b hb hc
  rcases encStep_cases h with ⟨rest, -, rfl⟩ | ⟨rest, -, -, rfl⟩ | ⟨rest, -, hf, rfl⟩
  · exact complete_inv hp ha nofun
  · exact complete_inv (hcount _) ha nofun
  · refine ⟨hst, hcount _, accOf_lt _, fun _ _ => ⟨hsh, ?_⟩, fun _ hd => absurd (ho.symm.trans hd) (by decide), hres⟩
    rw [encIsFinal_eq] at hf
    obtain ⟨hc', hin'⟩ := inRange_next hin hf
    rw [storeWork_count, countByte_count, count_succ hc]
    refine ⟨hc', ?_⟩
    show InRange s.sgn s.wid (operandInt s.sgn s.wid (accOf (shiftGroup s.sgn s.work)) * _)
    rw [work_after_shift]
    exact hin'

/-- In a running DEC command the guard lets a byte through only below MAXG(W) groups (R96). -/
theorem count_lt_of_readable {s : State} (hd : s.shift.toNat = 7 * s.count.toNat)
    (hg : s.shift.toNat ≤ widthBits s.wid) : s.count.toNat < maxGroups s.wid := by
  rw [← readable_iff, ← hd]
  exact hg

/-- Up to the width SHIFT does not wrap (R34). -/
theorem shift_succ {s : State} (hg : s.shift.toNat ≤ widthBits s.wid) :
    (s.shift + 7).toNat = s.shift.toNat + 7 := by
  have := widthBits_le s.wid
  rw [BitVec.toNat_add_of_lt] <;> simp; omega

/-- What a DEC command does with a byte keeps the invariant. -/
theorem takeByte_inv {s : State} (b : Byte) (hi : Inv s) (hr : Running .dec s)
    (hg : s.shift.toNat ≤ widthBits s.wid) : Inv (takeByte b s) := by
  obtain ⟨hst, -, ha, -, hdec, hres⟩ := hi
  obtain ⟨hb, ho⟩ := hr
  obtain ⟨hsh, hacc⟩ := hdec hb ho
  have hc := count_lt_of_readable hsh hg
  have hp : ProgressInv (countByte b s) := countByte_progress b hb hc
  have ha' : AccInv (mergeGroup (payload b) (countByte b s)) := accOf_lt _
  rcases takeByte_cases b s with ⟨-, -, h⟩ | ⟨-, -, h⟩ | ⟨-, -, h⟩ <;> rw [h]
  · exact complete_inv hp ha fun _ => ho
  · refine ⟨hst, hp, ha', fun _ he => absurd (ho.symm.trans he) (by decide), fun _ _ => ?_, hres⟩
    rw [mergeGroup_shift, mergeGroup_count, countByte_shift, countByte_count, count_succ hc, shift_succ hg, hsh]
    refine ⟨by ring, ?_⟩
    rw [mergeGroup_acc, countByte_shift, hsh]
    exact accOf_merge_lt (countByte b s) (payload b) hacc
  · rcases finalize_cases (payload b) (mergeGroup (payload b) (countByte b s)) with ⟨-, -, hf⟩ | ⟨-, hf⟩ <;> rw [hf]
    · exact complete_inv hp ha' fun _ => ho
    · exact finishDec_inv _ hp ha' ho

/-- A DEC step keeps the invariant. -/
theorem decStep_inv {s t : State} (hi : Inv s) (hr : Running .dec s) (h : decStep s = some t) : Inv t := by
  have ⟨_, hp, ha, _⟩ := hi
  rcases decStep_cases h with ⟨-, rfl⟩ | ⟨-, rest, -, rfl⟩ | ⟨hg, b, rest, -, rfl⟩
  · exact complete_inv hp ha fun _ => hr.2
  · exact complete_inv hp ha nofun
  · exact takeByte_inv (s := { s with sourceAnswers := rest }) b hi hr hg

theorem codecTurn_inv {s : State} (hi : Inv s) : Inv (codecTurn s) := by
  rcases codecTurn_cases s with h | h
  · obtain ⟨hb, ⟨ho, he⟩ | ⟨ho, hd⟩⟩ := codecStep_cases h
    · exact encStep_inv hi ⟨hb, ho⟩ he
    · exact decStep_inv hi ⟨hb, ho⟩ hd
  · rwa [h]

/-! ### The other steps keep the invariant -/

theorem commandRequest_inv {c : Byte} {s t : State} (hi : Inv s) (h : commandRequest c s = .next t) : Inv t := by
  have ⟨_, _, ha, _⟩ := hi
  rcases commandRequest_next h with ⟨-, rfl⟩ | ⟨-, rfl, -⟩ | ⟨-, i, u, g, v, -, rfl | rfl⟩
  · exact hi
  · exact raiseIllegalCmd_inv ha
  · exact latchCommand_inv u g _ v s
  · exact latchCommand_inv u g _ v s

theorem resetBlock_inv (s : State) : Inv (resetBlock s) := inv_reset

theorem EnvironmentUpdate.inv {s t : State} (hi : Inv s) (h : EnvironmentUpdate s t) : Inv t := by
  obtain ⟨_, _, _, _, _, _, _, _, _, _, rfl, -⟩ := h
  exact hi

end Sys2Proof.Machine
end

section
/-! PROOF. The invariant. -/

namespace Sys2Proof.Proofs

open Sys2Proof.Machine Sys2Proof.Claims

/-- Settles O48, by whose turn the step is. -/
theorem everyStepKeepsTheInvariant : Obligations.EveryStepKeepsTheInvariant := by
  intro s t hi h
  rcases step_next h with ⟨turns, -, rfl⟩ | ⟨v, rest, -, hv⟩ | ⟨rest, -, rfl⟩ | hu
  · exact codecTurn_inv (s := { s with schedule := turns }) hi
  · exact commandRequest_inv (s := { s with schedule := rest }) hi hv
  · exact resetBlock_inv _
  · exact hu.inv hi

end Sys2Proof.Proofs
end

section
/-! PROOF. The working registers along the groups of a command (R34, R76, R98). -/

namespace Sys2Proof.Machine

open Sys2Proof.Claims

/-- One more step after n. -/
theorem steps_succ_last {s m t : State} {n : Nat} (h : steps n s = .next m) (ht : step m = .next t) :
    steps (n + 1) s = .next t := by
  rw [steps_add h, steps_succ_of_next 0 ht, steps_zero]

theorem step_codec {s t : State} (hs : s.schedule = []) (h : codecStep s = some t) : step s = .next t := by
  rw [step_nil hs, codecTurn, h, Option.getD_some]

/-! ### The groups of an ENC command -/

theorem encLoop_length_le (n : Nat) (g : Signedness) (r : Int) : (encLoop n g r).length ≤ n := by
  induction n generalizing r with
  | zero => simp [encLoop]
  | succ n ih =>
    cases h : lastGroup g r
    · simpa [encLoop_more h] using ih (r / 128)
    · simp [encLoop_final h]

/-- Before its last byte the loop of `EncBytes` has no final remaining value (R79). -/
theorem lastGroup_of_lt_length {n j : Nat} {g : Signedness} {r : Int}
    (h : j + 1 < (encLoop n g r).length) : lastGroup g (r / 2 ^ (7 * j)) = false := by
  induction j generalizing n r with
  | zero =>
    match n with
    | 0 => simp [encLoop] at h
    | n + 1 =>
      cases hl : lastGroup g r
      · simpa using hl
      · simp [encLoop_final hl] at h
  | succ j ih =>
    match n with
    | 0 => simp [encLoop] at h
    | n + 1 =>
      cases hl : lastGroup g r
      · rw [encLoop_more hl] at h
        have hj := ih (Nat.lt_of_succ_lt_succ h)
        rwa [Int.ediv_ediv_of_nonneg (by decide), show (128 : Int) * 2 ^ (7 * j) = 2 ^ (7 * (j + 1)) by ring] at hj
      · simp [encLoop_final hl] at h

/-- ACC is the W-bit pattern of the remaining value. -/
theorem acc_eq_workInt {s : State} (ha : AccInv s) :
    s.acc = BitVec.ofInt 128 (workInt s % 2 ^ widthBits s.wid) := by
  have hw : (s.work.toNat : Int) % 2 ^ widthBits s.wid = workInt s % 2 ^ widthBits s.wid := by
    rw [workInt_eq]
    exact toNat_emod_eq s.sgn s.work dvd_rfl
  have hn : s.work.toNat = s.acc.toNat := by
    simp only [State.work, accPattern, BitVec.toNat_setWidth]
    exact Nat.mod_eq_of_lt ha
  rw [← hw, hn]
  apply BitVec.eq_of_toNat_eq
  have hz : (s.acc.toNat : Int) % 2 ^ widthBits s.wid = s.acc.toNat := by
    exact_mod_cast Nat.mod_eq_of_lt ha
  rw [hz]
  simp

/-- The integer of an operand is that of its W-bit pattern (R71). -/
theorem operandInt_accOf (g : Signedness) (w : Width) (v : Value) :
    operandInt g w (accOf (operandPattern (widthBits w) v)) = operandInt g w v := by
  have h : operandPattern (widthBits w) (accOf (operandPattern (widthBits w) v)) = operandPattern (widthBits w) v :=
    accPattern_accOf (widthBits_le w) _
  cases g <;> simp only [operandInt, h]

/-- The registers of an ENC command that has emitted j groups of the integer x (R34, R76). -/
structure EncRun (g : Signedness) (w : Width) (x : Int) (j : Nat) (s : State) : Prop where
  running : Running .enc s
  sgn : s.sgn = g
  wid : s.wid = w
  count : s.count = BitVec.ofNat 8 j
  shift : s.shift = 0
  work : workInt s = x / 2 ^ (7 * j)
  acc : AccInv s
  schedule : s.schedule = []

/-- An acknowledged group that is not final takes the run one group on. -/
theorem EncRun.next {g : Signedness} {w : Width} {x : Int} {j : Nat} {s : State} {rest : List SinkAnswer}
    (h : EncRun g w x j s) (hf : lastGroup g (x / 2 ^ (7 * j)) = false) (hs : s.sinkAnswers = .ack :: rest) :
    ∃ t, step s = .next t ∧ EncRun g w x (j + 1) t ∧ t.sinkAnswers = rest := by
  have hmore : encIsFinal s = false := by rw [encIsFinal_eq, h.sgn, h.work, hf]
  refine ⟨_, step_codec h.schedule ((codecStep_enc h.running.1 h.running.2).trans (encStep_ack_more hs hmore)),
    ⟨h.running, h.sgn, h.wid, ?_, h.shift, ?_, accOf_lt _, h.schedule⟩, rfl⟩
  · show s.count + 1 = _
    rw [h.count, BitVec.ofNat_add]
    rfl
  · show operandInt s.sgn s.wid (accOf (shiftGroup s.sgn s.work)) = _
    rw [work_after_shift, h.work, Int.ediv_ediv_of_nonneg (by positivity)]
    congr 1
    ring

/-- As long as the sink acknowledges and bytes are left, the run goes on. -/
theorem EncRun.after_steps {g : Signedness} {w : Width} {x : Int} {n j : Nat} {s : State} {rest : List SinkAnswer}
    (h : EncRun g w x 0 s) (hj : j < (encLoop n g x).length)
    (hs : s.sinkAnswers = List.replicate j .ack ++ rest) :
    ∃ t, steps j s = .next t ∧ EncRun g w x j t ∧ t.sinkAnswers = rest := by
  induction j generalizing rest with
  | zero => exact ⟨s, rfl, h, hs⟩
  | succ j ih =>
    rw [List.replicate_succ', List.append_assoc] at hs
    obtain ⟨m, hm, hrun, hrest⟩ := ih (by omega) hs
    obtain ⟨t, ht, hnext⟩ := hrun.next (lastGroup_of_lt_length hj) hrest
    exact ⟨t, steps_succ_last hm ht, hnext⟩

theorem EncRun.count_toNat {g : Signedness} {w : Width} {x : Int} {j : Nat} {s : State} (h : EncRun g w x j s)
    (hj : j < (encBytes w g x).length) : s.count.toNat = j := by
  have hl : j < widthBits w := lt_of_lt_of_le hj (encLoop_length_le (widthBits w) g x)
  have hw := widthBits_le w
  rw [h.count, BitVec.toNat_ofNat, Nat.mod_eq_of_lt (by omega)]

theorem latchCommand_encRun (g : Signedness) (w : Width) (v : Value) {s : State} (hs : s.schedule = []) :
    EncRun g w (operandInt g w v) 0 (latchCommand .enc g w v s) where
  running := ⟨rfl, rfl⟩
  sgn := rfl
  wid := rfl
  count := rfl
  shift := rfl
  work := by
    rw [Nat.mul_zero, pow_zero, Int.ediv_one]
    exact operandInt_accOf g w v
  acc := accOf_lt _
  schedule := hs

/-- An ENC command accepted while none runs starts the run of OPERAND's integer, or of an unspecified pattern's before
OPERAND's first write (R20, R38). -/
theorem exec_starts_encRun {row : Instr × Signedness × WidthSel} (hrow : row ∈ encTable) {s : State}
    (hb : s.status.state ≠ .busy) (hs : s.schedule = []) :
    ∃ t v, exec row.1 s = .next t ∧ (s.operandWritten = true → v = s.operand) ∧
      t.sinkAnswers = s.sinkAnswers ∧
      EncRun row.2.1 (widthOf s.ptrWidth row.2.2) (operandInt row.2.1 (widthOf s.ptrWidth row.2.2) v) 0 t := by
  rw [exec_of_mem_encTable hrow]
  cases ho : s.operandWritten
  · have hrun := latchCommand_encRun row.2.1 (widthOf s.ptrWidth row.2.2) (unspecifiedValue s) hs
    obtain ⟨hr, hg, hw, hc, hsh, hwork, hacc, hsch⟩ := hrun
    exact ⟨_, unspecifiedValue s, acceptCommand_unwritten _ _ hb ho, nofun, rfl,
      ⟨hr, hg, hw, hc, hsh, hwork, hacc, hsch⟩⟩
  · exact ⟨_, s.operand, acceptCommand_latches _ _ _ hb fun _ => ho, fun _ => rfl, rfl,
      latchCommand_encRun _ _ _ hs⟩

/-! ### The groups of a DEC command -/

/-- The registers of a DEC command that has merged the continuing groups bs (R34, R98). -/
structure DecRun (g : Signedness) (w : Width) (bs : List Byte) (s : State) : Prop where
  running : Running .dec s
  sgn : s.sgn = g
  wid : s.wid = w
  count : s.count.toNat = bs.length
  shift : s.shift.toNat = 7 * bs.length
  acc : s.acc.toNat = seqValue bs % 2 ^ widthBits w
  schedule : s.schedule = []

/-- A continuing group that is readable, and not past the width of an unsigned command, takes the run one group on. -/
theorem DecRun.next {g : Signedness} {w : Width} {bs : List Byte} {b : Byte} {s : State}
    {rest : List SourceAnswer} (h : DecRun g w bs s) (hlen : bs.length < maxGroups w) (hc : continues b = true)
    (hu : g = .unsigned → seqValue (bs ++ [b]) < 2 ^ widthBits w) (hs : s.sourceAnswers = .byte b :: rest) :
    ∃ t, step s = .next t ∧ DecRun g w (bs ++ [b]) t ∧ t.sourceAnswers = rest := by
  obtain ⟨hr, rfl, rfl, hcount, hshift, hacc, hsch⟩ := h
  have hg : s.shift.toNat ≤ widthBits s.wid := by rw [hshift, readable_iff]; exact hlen
  have hfit : s.sgn = .unsigned → exceedsUnsigned (widthBits s.wid) s.shift.toNat (payload b) = false := by
    intro hsg
    have hlt := hu hsg
    rw [seqValue_append] at hlt
    rw [← Bool.not_eq_true, exceedsUnsigned_iff, hshift, Nat.mul_comm]
    omega
  have htake : takeByte b { s with sourceAnswers := rest } =
      mergeGroup (payload b) (countByte b { s with sourceAnswers := rest }) := by
    rcases takeByte_cases b { s with sourceAnswers := rest } with ⟨hsg, hx, -⟩ | ⟨-, -, ht⟩ | ⟨-, hn, -⟩
    · exact absurd (hfit hsg) (by simp [hx])
    · exact ht
    · exact absurd hn (by simp [hc])
  have hbelow : s.acc.toNat < 2 ^ s.shift.toNat := by
    rw [hacc, hshift]
    exact lt_of_le_of_lt (Nat.mod_le _ _) (seqValue_lt bs)
  refine ⟨_, step_codec hsch ((codecStep_dec hr.1 hr.2).trans ((decStep_byte hg hs).trans (congrArg some htake))),
    ⟨hr, rfl, rfl, ?_, ?_, ?_, hsch⟩, rfl⟩
  · rw [List.length_append, List.length_singleton, ← hcount]
    exact count_succ (hcount ▸ hlen)
  · rw [List.length_append, List.length_singleton, Nat.mul_add, ← hshift]
    exact shift_succ hg
  · refine (accOf_merge_toNat s (payload b) hbelow).trans ?_
    rw [hacc, Nat.mod_add_mod, hshift, seqValue_append, Nat.mul_comm (payload b).toNat]

/-- As long as continuing groups come and none is past the width, the run goes on. -/
theorem DecRun.after_steps {g : Signedness} {w : Width} {bs : List Byte} {s : State} {rest : List SourceAnswer}
    (h : DecRun g w [] s) (hlen : bs.length ≤ maxGroups w) (hc : bs.all continues = true)
    (hu : g = .unsigned → seqValue bs < 2 ^ widthBits w) (hs : s.sourceAnswers = bs.map .byte ++ rest) :
    ∃ t, steps bs.length s = .next t ∧ DecRun g w bs t ∧ t.sourceAnswers = rest := by
  induction bs using List.reverseRecOn generalizing rest with
  | nil => exact ⟨s, rfl, h, hs⟩
  | append_singleton ds b ih =>
    rw [List.length_append, List.length_singleton] at hlen ⊢
    rw [List.all_append, Bool.and_eq_true] at hc
    rw [List.map_append, List.append_assoc] at hs
    have hu' : g = .unsigned → seqValue ds < 2 ^ widthBits w := by
      intro hg
      have hlt := hu hg
      rw [seqValue_append] at hlt
      omega
    obtain ⟨m, hm, hrun, hrest⟩ := ih (by omega) hc.1 hu' hs
    obtain ⟨t, ht, hnext⟩ := hrun.next hlen (by simpa using hc.2) hu hrest
    exact ⟨t, steps_succ_last hm ht, hnext⟩

theorem latchCommand_decRun (g : Signedness) (w : Width) (v : Value) {s : State} (hs : s.schedule = []) :
    DecRun g w [] (latchCommand .dec g w v s) where
  running := ⟨rfl, rfl⟩
  sgn := rfl
  wid := rfl
  count := rfl
  shift := rfl
  acc := by simp [seqValue, initialAcc]
  schedule := hs

/-- A DEC command accepted while none runs starts with nothing merged (R20). -/
theorem exec_starts_decRun {row : Instr × Signedness × WidthSel} (hrow : row ∈ decTable) {s : State}
    (hb : s.status.state ≠ .busy) (hs : s.schedule = []) :
    ∃ t, exec row.1 s = .next t ∧ t.sourceAnswers = s.sourceAnswers ∧
      DecRun row.2.1 (widthOf s.ptrWidth row.2.2) [] t := by
  rw [exec_of_mem_decTable hrow]
  exact ⟨_, acceptCommand_latches _ _ _ hb nofun, rfl, latchCommand_decRun _ _ _ hs⟩

end Sys2Proof.Machine
end

section
/-! PROOF. The working registers. -/

namespace Sys2Proof.Proofs

open Sys2Proof.Machine Sys2Proof.Claims

/-- Settles O30: acceptance starts a run of each unit, and every group takes the run one group on. -/
theorem workingRegistersFollowTheGroups : Obligations.WorkingRegistersFollowTheGroups := by
  refine ⟨fun row hrow s hb hs => ?_, fun row hrow s hb hs => ?_⟩
  · obtain ⟨t, v, ht, hv, hsink, hrun⟩ := exec_starts_encRun hrow hb hs
    refine ⟨t, v, ht, hv, fun w x hw hx j rest hj hans => ?_⟩
    subst hw hx
    obtain ⟨u, hu, hj', -⟩ := hrun.after_steps hj (hsink.trans hans)
    refine ⟨u, hu, hj'.running, hj'.count_toNat hj, hj'.shift, ?_⟩
    rw [acc_eq_workInt hj'.acc, hj'.work, hj'.wid]
  · obtain ⟨t, ht, hsource, hrun⟩ := exec_starts_decRun hrow hb hs
    refine ⟨t, ht, fun w hw bs rest hlen hc hfit hans => ?_⟩
    subst hw
    obtain ⟨u, hu, hbs, -⟩ := hrun.after_steps hlen hc hfit (hsource.trans hans)
    exact ⟨u, hu, hbs.running, hbs.count, hbs.shift, hbs.acc⟩

end Sys2Proof.Proofs
end

section
/-! PROOF. No hidden state carries over (R33). -/

namespace Sys2Proof.Machine

/-- Other contents of the five hidden registers (R32). -/
def setHidden (opk : Unit2) (sgn : Signedness) (wid : Width) (acc : Value) (shift : BitVec 8) (s : State) : State :=
  { s with opk := opk, sgn := sgn, wid := wid, acc := acc, shift := shift }

theorem sameButHidden_iff {s t : State} :
    SameButHidden s t ↔ ∃ opk sgn wid acc shift, t = setHidden opk sgn wid acc shift s := by
  refine ⟨fun h => ⟨_, _, _, _, _, h⟩, ?_⟩
  rintro ⟨_, _, _, _, _, rfl⟩
  rfl

theorem sameAnswerButHidden_refl (a : Answer) : SameAnswerButHidden a a := by
  cases a <;> rfl

/-- Two states between commands that differ at most in the hidden registers answer alike: the same next state, or again
two such states. -/
abbrev AnswerAlike (a b : Answer) : Prop :=
  (∃ u, a = .next u ∧ b = .next u) ∨
  ∃ u v, a = .next u ∧ b = .next v ∧ SameButHidden u v ∧ u.status.state ≠ .busy

theorem exec_next (i : Instr) (s : State) : ∃ u, exec i s = .next u := by
  obtain ⟨u, g, hx⟩ := exec_is_acceptance i
  rw [hx]
  rcases acceptCommand_cases u g (commandWidth i s) s with ⟨-, ha⟩ | ⟨-, -, -, ha⟩ | ⟨-, -, ha⟩ <;> exact ⟨_, ha⟩

/-! ### Moves that look at whether a stream is in use -/

theorem uses_of_not_busy {s : State} (hb : s.status.state ≠ .busy) (u : Unit2) : s.uses u = false := by
  simp [State.uses, hb]

theorem resetBlock_of_not_busy {s : State} (hb : s.status.state ≠ .busy) : resetBlock s = resetRegisters s := by
  simp [resetBlock, disturbSink, uses_of_not_busy hb]

theorem attachSink_of_not_busy {s : State} (hb : s.status.state ≠ .busy) (held : List Byte)
    (answers : List SinkAnswer) :
    attachSink held answers s = .next { s with sink := held, handed := [], sinkAnswers := answers } := by
  simp [attachSink, uses_of_not_busy hb]

theorem attachSource_of_not_busy {s : State} (hb : s.status.state ≠ .busy) (answers : List SourceAnswer) :
    attachSource answers s = .next { s with sourceAnswers := answers } := by
  simp [attachSource, uses_of_not_busy hb]

theorem outsideWrite_of_not_busy {s : State} (hb : s.status.state ≠ .busy) (b : Byte) :
    outsideWrite b s = .next { s with sink := s.sink ++ [b] } := by
  simp [outsideWrite, uses_of_not_busy hb]

theorem outsideRead_of_not_busy {s : State} (hb : s.status.state ≠ .busy) :
    outsideRead s = .next { s with sourceAnswers := s.sourceAnswers.tail } := by
  simp [outsideRead, uses_of_not_busy hb]

theorem rejectWord_of_not_busy {s : State} (hb : s.status.state ≠ .busy) : rejectWord s = raiseIllegalCmd s := by
  simp [rejectWord, hb]

section
variable {s : State} (hb : s.status.state ≠ .busy) (opk : Unit2) (sgn : Signedness) (wid : Width) (acc : Value)
  (shift : BitVec 8)
include hb

/-! ### Commands and turns between commands -/

/-- An acceptance writes every hidden register and reads none. -/
theorem acceptCommand_setHidden (u : Unit2) (g : Signedness) (w : Width) :
    acceptCommand u g w (setHidden opk sgn wid acc shift s) = acceptCommand u g w s := by
  rcases acceptCommand_cases u g w s with ⟨hy, -⟩ | ⟨-, rfl, ho, ha⟩ | ⟨-, ho, ha⟩
  · exact absurd hy hb
  · rw [ha]
    exact acceptCommand_unwritten (s := setHidden opk sgn wid acc shift s) g w hb ho
  · rw [ha]
    exact acceptCommand_latches (s := setHidden opk sgn wid acc shift s) u g w hb ho

theorem exec_setHidden (i : Instr) : exec i (setHidden opk sgn wid acc shift s) = exec i s := by
  obtain ⟨u, g, hx⟩ := exec_is_acceptance i
  have hw : commandWidth i (setHidden opk sgn wid acc shift s) = commandWidth i s := by cases i <;> rfl
  rw [hx, hx, hw, acceptCommand_setHidden hb]

theorem commandRequest_setHidden (c : Byte) :
    AnswerAlike (commandRequest c s) (commandRequest c (setHidden opk sgn wid acc shift s)) := by
  match hd : decode c with
  | .ok i =>
    rw [commandRequest_ok hd, commandRequest_ok hd, exec_setHidden hb]
    obtain ⟨u, hu⟩ := exec_next i s
    exact .inl ⟨u, hu, hu⟩
  | .error e =>
    rw [commandRequest_error hd, commandRequest_error hd, rejectWord_of_not_busy hb,
      rejectWord_of_not_busy (s := setHidden opk sgn wid acc shift s) hb]
    exact .inr ⟨_, _, rfl, rfl, rfl, nofun⟩

/-- No turn between commands reads a hidden register, and an acceptance and a reset write them all. -/
theorem takeTurn_setHidden (turn : Turn) :
    AnswerAlike (takeTurn turn s) (takeTurn turn (setHidden opk sgn wid acc shift s)) := by
  have hb' : (setHidden opk sgn wid acc shift s).status.state ≠ .busy := hb
  match turn with
  | .codec =>
    simp only [takeTurn, codecTurn_not_busy hb, codecTurn_not_busy hb']
    exact .inr ⟨_, _, rfl, rfl, rfl, hb⟩
  | .host (.write r v) =>
    by_cases hr : r = 0
    · subst hr
      exact commandRequest_setHidden hb opk sgn wid acc shift (commandWord v)
    · simp only [takeTurn, hostTurn, hostWrite, if_neg hr, hostWriteData]
      by_cases h4 : r = 4
      · simp only [if_pos h4]
        exact .inr ⟨_, _, rfl, rfl, rfl, hb⟩
      · simp only [if_neg h4]
        exact .inr ⟨_, _, rfl, rfl, rfl, hb⟩
  | .host (.read r) =>
    simp only [takeTurn, hostTurn]
    match hv : readRegister r s with
    | .ok v =>
      rw [hostRead_of_ok hv, hostRead_of_ok (s := setHidden opk sgn wid acc shift s) hv]
      exact .inr ⟨_, _, rfl, rfl, rfl, hb⟩
    | .error f =>
      rw [hostRead_of_error hv, hostRead_of_error (s := setHidden opk sgn wid acc shift s) hv]
      exact .inr ⟨_, _, rfl, rfl, rfl, hb⟩
  | .host .wait => exact .inr ⟨_, _, rfl, rfl, rfl, hb⟩
  | .host .reset =>
    simp only [takeTurn, hostTurn, resetBlock_of_not_busy hb, resetBlock_of_not_busy hb']
    exact .inl ⟨_, rfl, rfl⟩
  | .host (.attachSink held answers) =>
    simp only [takeTurn, hostTurn, attachSink_of_not_busy hb, attachSink_of_not_busy hb']
    exact .inr ⟨_, _, rfl, rfl, rfl, hb⟩
  | .host (.attachSource answers) =>
    simp only [takeTurn, hostTurn, attachSource_of_not_busy hb, attachSource_of_not_busy hb']
    exact .inr ⟨_, _, rfl, rfl, rfl, hb⟩
  | .outsideWrite b =>
    simp only [takeTurn, outsideWrite_of_not_busy hb, outsideWrite_of_not_busy hb']
    exact .inr ⟨_, _, rfl, rfl, rfl, hb⟩
  | .outsideRead =>
    simp only [takeTurn, outsideRead_of_not_busy hb, outsideRead_of_not_busy hb']
    exact .inr ⟨_, _, rfl, rfl, rfl, hb⟩

theorem step_setHidden : AnswerAlike (step s) (step (setHidden opk sgn wid acc shift s)) := by
  match hs : s.schedule with
  | [] =>
    rw [step_nil hs, step_nil (s := setHidden opk sgn wid acc shift s) hs]
    exact takeTurn_setHidden hb opk sgn wid acc shift .codec
  | turn :: rest =>
    rw [step_cons hs, step_cons (s := setHidden opk sgn wid acc shift s) hs]
    exact takeTurn_setHidden (s := { s with schedule := rest }) hb opk sgn wid acc shift turn

end

/-! ### Runs -/

theorem steps_sameButHidden {s t : State} (n : Nat) (h : SameButHidden s t) (hb : s.status.state ≠ .busy) :
    SameAnswerButHidden (steps n s) (steps n t) := by
  induction n generalizing s t with
  | zero => exact h
  | succ n ih =>
    obtain ⟨opk, sgn, wid, acc, shift, rfl⟩ := sameButHidden_iff.1 h
    rcases step_setHidden hb opk sgn wid acc shift with ⟨u, hs, ht⟩ | ⟨u, v, hs, ht, huv, hu⟩
    · rw [steps_succ_of_next n hs, steps_succ_of_next n ht]
      exact sameAnswerButHidden_refl _
    · rw [steps_succ_of_next n hs, steps_succ_of_next n ht]
      exact ih huv hu

end Sys2Proof.Machine
end

section
/-! PROOF. The statement on hidden state. -/

namespace Sys2Proof.Proofs

open Sys2Proof.Machine Sys2Proof.Claims

/-- Settles O39: an acceptance overwrites the hidden registers, and no other turn between commands reads them. -/
theorem noHiddenCarryOver : Obligations.NoHiddenCarryOver := by
  intro s t h hb
  refine ⟨fun i => ?_, fun n => steps_sameButHidden n h hb⟩
  obtain ⟨opk, sgn, wid, acc, shift, rfl⟩ := sameButHidden_iff.1 h
  obtain ⟨u, hu⟩ := exec_next i s
  exact ⟨u, hu, (exec_setHidden hb opk sgn wid acc shift i).trans hu⟩

end Sys2Proof.Proofs
end

section
/-! PROOF. The fields of a command word and what the decoder makes of each byte (R59, R62, R63, R66). -/

namespace Sys2Proof.Machine

open Sys2Proof.Claims

/-! ### The fields, as digits of the word's number -/

theorem opCode_opField (c : Byte) : opCode (opField c) = c.toNat % 2 := by
  have h0 : c.getLsbD 0 = decide (c.toNat % 2 = 1) := by
    simp [BitVec.getLsbD, Nat.testBit_eq_decide_div_mod_eq]
  unfold opField
  split <;> simp_all [opCode]

theorem sgnCode_sgnField (c : Byte) : sgnCode (sgnField c) = c.toNat / 2 % 2 := by
  have h1 : c.getLsbD 1 = decide (c.toNat / 2 % 2 = 1) := by
    simp [BitVec.getLsbD, Nat.testBit_eq_decide_div_mod_eq]
  unfold sgnField
  split <;> simp_all [sgnCode]

theorem wselBits_toNat (c : Byte) : (c.extractLsb' 2 3).toNat = c.toNat / 4 % 8 := by
  simp [BitVec.extractLsb'_toNat, Nat.shiftRight_eq_div_pow]

/-- Bits 7:5 are 000 exactly in the words below 0x20. -/
theorem reservedBits_eq_zero_iff (c : Byte) : c.extractLsb' 5 3 = 0 ↔ c.toNat < 0x20 := by
  have hc : c.toNat < 256 := c.isLt
  simp only [← BitVec.toNat_inj, BitVec.extractLsb'_toNat, Nat.shiftRight_eq_div_pow, BitVec.ofNat_eq_ofNat,
    BitVec.toNat_zero]
  omega

theorem wselField_eq_some_iff (c : Byte) (ws : WidthSel) :
    wselField c = some ws ↔ (c.extractLsb' 2 3).toNat = wselCode ws := by
  unfold wselField
  split <;> cases ws <;> simp_all [wselCode]

theorem wselField_eq_none_iff (c : Byte) : wselField c = none ↔ 6 ≤ (c.extractLsb' 2 3).toNat := by
  unfold wselField
  split
  case h_7 => simp only [imp_false, true_iff] at *; omega
  all_goals simp [*]

/-! ### The words of the commands -/

/-- `c = WSEL*4 + SGN*2 + OP` (R63). -/
theorem encode_commandOf_toNat (u : Unit2) (g : Signedness) (ws : WidthSel) :
    (encode (commandOf u g ws)).toNat = wselCode ws * 4 + sgnCode g * 2 + opCode u := by
  cases u <;> cases g <;> cases ws <;> rfl

theorem decode_of_reservedBits {c : Byte} (hr : 0x20 ≤ c.toNat) : decode c = .error .reservedBits :=
  if_neg fun h => by have := (reservedBits_eq_zero_iff c).1 h; omega

theorem decode_of_wselField_none {c : Byte} (hr : c.toNat < 0x20) (hs : wselField c = none) :
    decode c = .error .reservedWidth := by
  simp only [decode, (reservedBits_eq_zero_iff c).2 hr, hs, if_true]

theorem decode_of_wselField_some {c : Byte} {ws : WidthSel} (hr : c.toNat < 0x20) (hs : wselField c = some ws) :
    decode c = .ok (commandOf (opField c) (sgnField c) ws) := by
  simp only [decode, (reservedBits_eq_zero_iff c).2 hr, hs, if_true]

/-- What the decoder makes of a byte, by the range the byte is in (R63, R66). -/
theorem decode_cases (c : Byte) :
    (c.toNat ≤ 0x17 ∧ ∃ i, decode c = .ok i ∧ encode i = c) ∨
    (0x18 ≤ c.toNat ∧ c.toNat ≤ 0x1F ∧ decode c = .error .reservedWidth) ∨
    (0x20 ≤ c.toNat ∧ decode c = .error .reservedBits) := by
  have hw := wselBits_toNat c
  rcases Nat.lt_or_ge c.toNat 0x20 with hr | hr
  case inr => exact .inr (.inr ⟨hr, decode_of_reservedBits hr⟩)
  cases hs : wselField c with
  | none =>
    have h6 := (wselField_eq_none_iff c).1 hs
    exact .inr (.inl ⟨by omega, by omega, decode_of_wselField_none hr hs⟩)
  | some ws =>
    have hws := (wselField_eq_some_iff c ws).1 hs
    have hlt : wselCode ws ≤ 5 := by cases ws <;> decide
    refine .inl ⟨by omega, _, decode_of_wselField_some hr hs, BitVec.eq_of_toNat_eq ?_⟩
    rw [encode_commandOf_toNat, opCode_opField, sgnCode_sgnField]
    omega

theorem encode_of_decode {c : Byte} {i : Instr} (h : decode c = .ok i) : encode i = c := by
  rcases decode_cases c with ⟨-, j, hj, hc⟩ | ⟨-, -, he⟩ | ⟨-, he⟩
  · cases h.symm.trans hj
    exact hc
  · cases h.symm.trans he
  · cases h.symm.trans he

theorem decode_eq_ok_iff (c : Byte) (i : Instr) : decode c = .ok i ↔ c = encode i :=
  ⟨fun h => (encode_of_decode h).symm, fun h => h ▸ decode_encode i⟩

theorem legalWord_iff_decode (c : Byte) : legalWord c = true ↔ ∃ i, decode c = .ok i := by
  rw [legalWord_eq_isOk]
  cases decode c <;> simp [Except.isOk, Except.toBool]

theorem legalWord_iff_le (c : Byte) : legalWord c = true ↔ c.toNat ≤ 0x17 := by
  rw [legalWord_iff_decode]
  rcases decode_cases c with ⟨hc, i, hi, -⟩ | ⟨hc, -, he⟩ | ⟨hc, he⟩
  · exact iff_of_true ⟨i, hi⟩ hc
  · exact iff_of_false (by simp [he]) (by omega)
  · exact iff_of_false (by simp [he]) (by omega)

/-- The table of R63 lists each command once, with the word `encode` gives it. -/
theorem mem_commandMap_iff (n : Nat) (i : Instr) : (n, i) ∈ commandMap ↔ n = (encode i).toNat := by
  cases i <;> simp [commandMap, encode]

/-! ### Steps -/

theorem step_illegal {s : State} {c : Byte} {rest : List Turn} (hl : legalWord c = false)
    (h : Requests s c rest) (hb : s.status.state ≠ .busy) :
    step s = .next (raiseIllegalCmd { s with schedule := rest }) := by
  obtain ⟨v, rfl, hs⟩ := h
  cases hd : decode (commandWord v) with
  | ok i => simp [legalWord_of_ok hd] at hl
  | error e =>
    rw [step_request hs, commandRequest_error hd,
      rejectWord_of_not_busy (s := { s with schedule := rest }) hb]

theorem step_wait {s : State} {rest : List Turn} (h : s.schedule = .host .wait :: rest) :
    step s = .next (hostWait { s with schedule := rest }) := by
  rw [step_cons h]; rfl

theorem hostWait_of_busy {s : State} (hb : s.status.state = .busy) :
    hostWait s = { s with
      readData := s.status.word.setWidth 128, schedule := .codec :: .host .wait :: s.schedule } := by
  simp [hostWait, State.busy, hb]

theorem hostWait_of_not_busy {s : State} (hb : s.status.state ≠ .busy) :
    hostWait s = { s with readData := s.status.word.setWidth 128 } := by
  simp [hostWait, State.busy, hb]

end Sys2Proof.Machine
end

section
/-! PROOF. The statements on command words and WAIT (30_encoding.md). -/

namespace Sys2Proof.Proofs

open Sys2Proof.Machine Sys2Proof.Claims

/-- Settles O1: the table pairs each command with its encoding, which is what decodes to it. -/
theorem commandMapIsExact : Obligations.CommandMapIsExact := by
  refine ⟨fun c i => ?_, rfl, fun u g ws => ?_⟩
  · rw [decode_eq_ok_iff, mem_commandMap_iff, BitVec.toNat_inj]
  · rw [mem_commandMap_iff, encode_commandOf_toNat]

/-- Settles O2: each command's word evaluated, and the fields of a word that decodes put together again. -/
theorem decodeAndEncodeAgree : Obligations.DecodeAndEncodeAgree :=
  ⟨fun i _ => decode_encode i, fun _ _ => encode_of_decode⟩

/-- Settles O3: the select by its code, the numbers by evaluation at each width. -/
theorem widthSelectTable : Obligations.WidthSelectTable := by
  refine ⟨fun c => ?_, fun p => ⟨rfl, rfl, rfl, rfl, rfl⟩, by decide⟩
  split_ifs
  case neg => exact (wselField_eq_none_iff c).2 (by omega)
  all_goals exact (wselField_eq_some_iff c _).2 ‹_›

/-- Settles O8: the range of the byte decides what the decoder says; a rejected request raises IllegalCmd. -/
theorem illegalWordsCompleteAtOnce : Obligations.IllegalWordsCompleteAtOnce := by
  intro c
  refine ⟨legalWord_iff_le c, legalWord_iff_decode c, fun hlo hhi => ?_, decode_of_reservedBits,
    fun s rest => step_illegal⟩
  have hw := wselBits_toNat c
  exact decode_of_wselField_none (by omega) ((wselField_eq_none_iff c).2 (by omega))

/-- Settles O17: WAIT's one read of STATUS, with the next poll scheduled only while BUSY. -/
theorem waitPollsStatus : Obligations.WaitPollsStatus := by
  refine fun s rest hs => ⟨fun hb => ?_, fun hb => ?_⟩
  · rw [step_wait hs, hostWait_of_not_busy (s := { s with schedule := rest }) hb]
  · rw [step_wait hs, hostWait_of_busy (s := { s with schedule := rest }) hb]

end Sys2Proof.Proofs
end

section
/-! PROOF. The bytes of `EncBytes` as a sequence of groups: its value, length and last byte (R69, R70, R79, R80). -/

namespace Sys2Proof.Machine

open Sys2Proof.Claims

/-! ### The stop test along the groups -/

theorem lastGroup_unsigned_iff (r : Int) : lastGroup .unsigned r = true ↔ r ≤ 127 := by
  simp [lastGroup]

theorem lastGroup_signed_iff (r : Int) : lastGroup .signed r = true ↔ -64 ≤ r ∧ r ≤ 63 := by
  simp [lastGroup]

/-- The unsigned stop test after k more groups is a bound on the integer (R75, R80). -/
theorem lastGroup_unsigned_div_iff (x : Int) (k : Nat) :
    lastGroup .unsigned (x / 2 ^ (7 * k)) = true ↔ x < 2 ^ (7 * k + 7) := by
  have hp : (0 : Int) < 2 ^ (7 * k) := by positivity
  have e : (2 : Int) ^ (7 * k + 7) = 128 * 2 ^ (7 * k) := by ring
  rw [e, ← Int.ediv_lt_iff_lt_mul hp, lastGroup_unsigned_iff]
  omega

/-- The signed stop test after k more groups is the range of a pattern of 7k + 7 bits (R75, R80). -/
theorem lastGroup_signed_div_iff (x : Int) (k : Nat) :
    lastGroup .signed (x / 2 ^ (7 * k)) = true ↔ -(2 ^ (7 * k + 6)) ≤ x ∧ x ≤ 2 ^ (7 * k + 6) - 1 := by
  have hp : (0 : Int) < 2 ^ (7 * k) := by positivity
  have e : (2 : Int) ^ (7 * k + 6) = 64 * 2 ^ (7 * k) := by ring
  have hlo : -(2 ^ (7 * k + 6)) ≤ x ↔ -64 ≤ x / 2 ^ (7 * k) := by
    rw [Int.le_ediv_iff_mul_le hp, e, neg_mul]
  have hhi : x ≤ 2 ^ (7 * k + 6) - 1 ↔ x / 2 ^ (7 * k) < 64 := by
    rw [Int.ediv_lt_iff_lt_mul hp, e, Int.le_sub_one_iff]
  rw [hlo, hhi, lastGroup_signed_iff]
  omega

theorem lastGroup_div_128 {g : Signedness} {r : Int} (h : lastGroup g r = true) :
    lastGroup g (r / 128) = true := by
  cases g
  case unsigned =>
    rw [lastGroup_unsigned_iff] at *
    omega
  case signed =>
    rw [lastGroup_signed_iff] at *
    omega

theorem ediv_groups_succ (x : Int) (k : Nat) : x / 2 ^ (7 * (k + 1)) = x / 2 ^ (7 * k) / 128 := by
  rw [Int.ediv_ediv_of_nonneg (by positivity)]
  congr 1
  ring

theorem ediv_128_groups (x : Int) (k : Nat) : x / 2 ^ (7 * (k + 1)) = x / 128 / 2 ^ (7 * k) := by
  rw [Int.ediv_ediv_of_nonneg (by decide)]
  congr 1
  ring

/-- A final value stays final under further shifts. -/
theorem lastGroup_div_mono {g : Signedness} {x : Int} {j k : Nat} (hjk : j ≤ k)
    (h : lastGroup g (x / 2 ^ (7 * j)) = true) : lastGroup g (x / 2 ^ (7 * k)) = true := by
  induction k, hjk using Nat.le_induction with
  | base => exact h
  | succ k _ ih =>
    rw [ediv_groups_succ]
    exact lastGroup_div_128 ih

/-- An integer of the width is final after MAXG(W) - 1 groups (R8, R80). -/
theorem lastGroup_of_inRange {g : Signedness} {w : Width} {x : Int} (h : InRange g w x) :
    lastGroup g (x / 2 ^ (7 * (maxGroups w - 1))) = true := by
  have hW : widthBits w ≤ 7 * (maxGroups w - 1) + 7 := by cases w <;> decide
  have hpos := widthBits_ge w
  cases g
  case unsigned =>
    rw [lastGroup_unsigned_div_iff]
    have hle : (2 : Int) ^ widthBits w ≤ 2 ^ (7 * (maxGroups w - 1) + 7) := pow_le_pow_right₀ (by decide) hW
    exact lt_of_lt_of_le (Int.lt_of_le_sub_one h.2) hle
  case signed =>
    rw [lastGroup_signed_div_iff]
    have hle : (2 : Int) ^ (widthBits w - 1) ≤ 2 ^ (7 * (maxGroups w - 1) + 6) :=
      pow_le_pow_right₀ (by decide) (by omega)
    obtain ⟨hlo, hhi⟩ := h
    exact ⟨by linarith, by linarith⟩

/-! ### The value of a sequence -/

/-- The value of a sequence from its last group, read as its signedness says (R69, R70). -/
theorem seqInt_append (g : Signedness) (bs : List Byte) (b : Byte) :
    seqInt g (bs ++ [b]) = seqValue bs + 2 ^ (7 * bs.length) * patInt g (payload b) := by
  cases g
  case unsigned =>
    simp only [seqInt, patInt, seqValue_append]
    push_cast
    ring
  case signed =>
    have hp : (payload b).toInt = (payload b).toNat - if (payload b).getLsbD 6 then 128 else 0 := by
      rw [BitVec.toInt_eq_msb_cond, BitVec.msb_eq_getLsbD_last]
      split <;> simp
    simp only [seqInt, patInt, seqValueSigned, finalSign, seqValue_append, hp, List.getLastD_concat,
      List.length_append, List.length_singleton, Nat.mul_add, pow_add]
    push_cast
    split <;> ring

theorem seqInt_singleton (g : Signedness) (b : Byte) : seqInt g [b] = patInt g (payload b) := by
  simpa [seqValue] using seqInt_append g [] b

/-- A group before the last one adds its payload below the rest (R69, R70). -/
theorem seqInt_cons (g : Signedness) (b : Byte) {bs : List Byte} (h : bs ≠ []) :
    seqInt g (b :: bs) = (payload b).toNat + 128 * seqInt g bs := by
  cases g
  case unsigned => simp [seqInt, seqValue]
  case signed =>
    have hs : finalSign (b :: bs) = finalSign bs := by
      obtain ⟨c, cs, rfl⟩ := List.exists_cons_of_ne_nil h
      rfl
    simp only [seqInt, seqValueSigned, seqValue, hs, List.length_cons, Nat.mul_add, pow_add]
    push_cast
    split <;> ring

/-- A signed sequence is negative exactly when bit 6 of its last payload is set (R70). -/
theorem finalSign_eq (bs : List Byte) : finalSign bs = decide (seqInt .signed bs < 0) := by
  have hlt : (seqValue bs : Int) < 2 ^ (7 * bs.length) := by exact_mod_cast seqValue_lt bs
  have hv : seqInt .signed bs = seqValue bs - if finalSign bs then 2 ^ (7 * bs.length) else 0 := rfl
  rw [hv, Bool.eq_iff_iff, decide_eq_true_iff]
  split
  · next hs => exact iff_of_true hs (by omega)
  · next hs => exact iff_of_false hs (by omega)

theorem lastGroup_patInt (g : Signedness) (p : BitVec 7) : lastGroup g (patInt g p) = true := by
  cases g
  case unsigned =>
    have hlt := p.isLt
    rw [lastGroup_unsigned_iff]
    simp only [patInt]
    omega
  case signed =>
    have hlo := BitVec.le_toInt p
    have hhi := BitVec.toInt_lt (x := p)
    rw [lastGroup_signed_iff]
    simp only [patInt]
    omega

/-- What a sequence stands for is final after all its groups but one (R70, R80). -/
theorem lastGroup_seqInt (g : Signedness) {bs : List Byte} (h : bs ≠ []) :
    lastGroup g (seqInt g bs / 2 ^ (7 * (bs.length - 1))) = true := by
  obtain ⟨ds, b, rfl⟩ := List.eq_nil_or_concat' bs |>.resolve_left h
  have hlt : (seqValue ds : Int) < 2 ^ (7 * ds.length) := by exact_mod_cast seqValue_lt ds
  rw [List.length_append, List.length_singleton, Nat.add_sub_cancel, seqInt_append,
    Int.add_mul_ediv_left _ _ (by positivity), Int.ediv_eq_zero_of_lt (by positivity) hlt, zero_add]
  exact lastGroup_patInt g _

theorem isSequence_ne_nil {bs : List Byte} (h : isSequence bs = true) : bs ≠ [] := by
  rintro rfl
  simp [isSequence] at h

/-! ### The loop of `EncBytes` -/

/-- The byte the loop of `EncBytes` emits for the remaining integer r (R79). -/
def loopByte (g : Signedness) (r : Int) : Byte :=
  BitVec.ofInt 8 (if lastGroup g r then r % 128 else r % 128 + 128)

theorem loopByte_toNat (g : Signedness) (r : Int) :
    ((loopByte g r).toNat : Int) = if lastGroup g r then r % 128 else r % 128 + 128 :=
  ofInt8_toNat (by split <;> omega) (by split <;> omega)

theorem continues_loopByte (g : Signedness) (r : Int) : continues (loopByte g r) = !lastGroup g r := by
  have h := loopByte_toNat g r
  rw [Bool.eq_iff_iff, continues_iff]
  cases hl : lastGroup g r <;> simp only [hl, if_true, Bool.false_eq_true, if_false] at h <;> simp <;> omega

theorem payload_loopByte (g : Signedness) (r : Int) : ((payload (loopByte g r)).toNat : Int) = r % 128 := by
  have h := loopByte_toNat g r
  rw [payload_toNat]
  split at h <;> omega

/-- The last byte carries the remaining integer (R75). -/
theorem patInt_payload_loopByte {g : Signedness} {r : Int} (hl : lastGroup g r = true)
    (h0 : g = .unsigned → 0 ≤ r) : patInt g (payload (loopByte g r)) = r := by
  have hp := payload_loopByte g r
  cases g
  case unsigned =>
    have hpos := h0 rfl
    rw [lastGroup_unsigned_iff] at hl
    simp only [patInt]
    omega
  case signed =>
    rw [lastGroup_signed_iff] at hl
    simp only [patInt, BitVec.toInt_eq_toNat_cond]
    split <;> omega

/-- A property of the remaining integer and the bytes to come holds of a whole loop if it holds at the last byte and is
passed on from the bytes after a byte. The loop has fuel enough when some remaining integer within it is final. -/
theorem encLoop_induction {g : Signedness} {P : Int → List Byte → Prop}
    (last : ∀ r, lastGroup g r = true → P r [loopByte g r])
    (more : ∀ r bs, lastGroup g r = false → bs ≠ [] → P (r / 128) bs → P r (loopByte g r :: bs))
    {n k : Nat} {x : Int} (hk : k < n) (hx : lastGroup g (x / 2 ^ (7 * k)) = true) :
    encLoop n g x ≠ [] ∧ P x (encLoop n g x) := by
  induction n generalizing k x with
  | zero => omega
  | succ n ih =>
    cases hl : lastGroup g x
    · match k with
      | 0 => simp [hl] at hx
      | k + 1 =>
        rw [ediv_128_groups] at hx
        obtain ⟨hne, hP⟩ := ih (Nat.lt_of_succ_lt_succ hk) hx
        have hb : encLoop (n + 1) g x = loopByte g x :: encLoop n g (x / 128) := by
          simp [encLoop_more hl, loopByte, hl]
        rw [hb]
        exact ⟨List.cons_ne_nil _ _, more x _ hl hne hP⟩
    · have hb : encLoop (n + 1) g x = [loopByte g x] := by simp [encLoop_final hl, loopByte, hl]
      rw [hb]
      exact ⟨List.cons_ne_nil _ _, last x hl⟩

section
variable {g : Signedness} {w : Width} {x : Int}

/-- `encLoop_induction` for an integer of the width. -/
theorem encBytes_induction {P : Int → List Byte → Prop} (h : InRange g w x)
    (last : ∀ r, lastGroup g r = true → P r [loopByte g r])
    (more : ∀ r bs, lastGroup g r = false → bs ≠ [] → P (r / 128) bs → P r (loopByte g r :: bs)) :
    encBytes w g x ≠ [] ∧ P x (encBytes w g x) := by
  have h1 := maxGroups_pos w
  have h2 := maxGroups_le_widthBits w
  exact encLoop_induction last more (by omega) (lastGroup_of_inRange h)

theorem encBytes_ne_nil (h : InRange g w x) : encBytes w g x ≠ [] :=
  (encBytes_induction (P := fun _ _ => True) h (fun _ _ => trivial) fun _ _ _ _ _ => trivial).1

theorem isSequence_encBytes (h : InRange g w x) : isSequence (encBytes w g x) = true := by
  refine (encBytes_induction (P := fun _ bs => isSequence bs = true) h (fun r hl => ?_) fun r bs hl hne ih => ?_).2
  · simp [isSequence, continues_loopByte, hl]
  · obtain ⟨c, cs, rfl⟩ := List.exists_cons_of_ne_nil hne
    simp [isSequence, continues_loopByte, hl, ih]

/-- Decoding the encoding gives the integer back (R80, R107). -/
theorem seqInt_encBytes (h : InRange g w x) : seqInt g (encBytes w g x) = x := by
  refine (encBytes_induction (P := fun r bs => (g = .unsigned → 0 ≤ r) → seqInt g bs = r) h
    (fun r hl h0 => ?_) fun r bs hl hne ih h0 => ?_).2 ?_
  · rw [seqInt_singleton, patInt_payload_loopByte hl h0]
  · rw [seqInt_cons g _ hne, payload_loopByte, ih fun hg => by have := h0 hg; omega]
    omega
  · rintro rfl
    exact h.1

/-- Bit 6 of the last byte is the sign (R78). -/
theorem encBytes_sign {w : Width} {x : Int} (h : InRange .signed w x) :
    ((encBytes w .signed x).getLastD 0).getLsbD 6 = decide (x < 0) := by
  have hs := finalSign_eq (encBytes w .signed x)
  rw [seqInt_encBytes h] at hs
  rw [← hs]
  simp [finalSign, payload]

/-- After the bytes before the last one the remaining integer is final. -/
theorem lastGroup_encBytes (h : InRange g w x) :
    lastGroup g (x / 2 ^ (7 * ((encBytes w g x).length - 1))) = true := by
  have hl := lastGroup_seqInt g (encBytes_ne_nil h)
  rwa [seqInt_encBytes h] at hl

/-- The length is the first number of groups after which nothing remains (R80). -/
theorem encBytes_length_le_iff (h : InRange g w x) (k : Nat) :
    (encBytes w g x).length ≤ k + 1 ↔ lastGroup g (x / 2 ^ (7 * k)) = true := by
  constructor
  · intro hk
    exact lastGroup_div_mono (by omega) (lastGroup_encBytes h)
  · intro hl
    by_contra hk
    have hf := lastGroup_of_lt_length (n := widthBits w) (g := g) (r := x) (not_le.1 hk)
    simp [hl] at hf

theorem encBytes_length_pos (h : InRange g w x) : 0 < (encBytes w g x).length :=
  List.length_pos_of_ne_nil (encBytes_ne_nil h)

theorem encBytes_length_le_maxGroups (h : InRange g w x) : (encBytes w g x).length ≤ maxGroups w := by
  have hM := maxGroups_pos w
  have hle := (encBytes_length_le_iff h (maxGroups w - 1)).2 (lastGroup_of_inRange h)
  omega

/-- No shorter sequence has the value (R80). -/
theorem encBytes_length_le_of_seqInt (h : InRange g w x) {cs : List Byte} (hs : isSequence cs = true)
    (hx : seqInt g cs = x) : (encBytes w g x).length ≤ cs.length := by
  have hne := isSequence_ne_nil hs
  have hpos := List.length_pos_of_ne_nil hne
  have hle := (encBytes_length_le_iff h (cs.length - 1)).2 (hx ▸ lastGroup_seqInt g hne)
  omega

/-- An integer that one group less than MAXG(W) cannot hold takes MAXG(W) groups (R8, R80). -/
theorem encBytes_length_eq_maxGroups (h : InRange g w x)
    (hx : lastGroup g (x / 2 ^ (7 * (maxGroups w - 2))) ≠ true) : (encBytes w g x).length = maxGroups w := by
  have hM : 2 ≤ maxGroups w := by cases w <;> decide
  have hle := encBytes_length_le_maxGroups h
  have hlt := (encBytes_length_le_iff h (maxGroups w - 2)).not.2 hx
  omega

end

/-- `max(1, ceil(bitlen(x) / 7))` (R80). -/
theorem encBytes_length_unsigned {w : Width} {x : Int} (h : InRange .unsigned w x) :
    (encBytes w .unsigned x).length = max 1 ((Nat.size x.toNat + 6) / 7) := by
  have hpos := encBytes_length_pos h
  have key : ∀ k, (encBytes w .unsigned x).length ≤ k + 1 ↔ (Nat.size x.toNat + 6) / 7 ≤ k + 1 := by
    intro k
    have hc : ((2 ^ (7 * k + 7) : Nat) : Int) = 2 ^ (7 * k + 7) := by push_cast; rfl
    have hlt : x < 2 ^ (7 * k + 7) ↔ x.toNat < 2 ^ (7 * k + 7) := by
      rw [← hc]
      have h0 := h.1
      omega
    rw [encBytes_length_le_iff h, lastGroup_unsigned_div_iff, hlt, ← Nat.size_le]
    omega
  have h1 := (key ((encBytes w .unsigned x).length - 1)).1 (by omega)
  have h2 := (key (max 1 ((Nat.size x.toNat + 6) / 7) - 1)).2 (by omega)
  omega

/-- The least n with `-2^(7n-1) <= x <= 2^(7n-1)-1` (R80). -/
theorem encBytes_length_signed_iff {w : Width} {x : Int} (h : InRange .signed w x) {n : Nat} (hn : 1 ≤ n) :
    (-(2 ^ (7 * n - 1)) ≤ x ∧ x ≤ 2 ^ (7 * n - 1) - 1) ↔ (encBytes w .signed x).length ≤ n := by
  obtain ⟨k, rfl⟩ := Nat.exists_eq_add_of_le' hn
  rw [encBytes_length_le_iff h, lastGroup_signed_div_iff]
  rfl

/-- The greatest unsigned value takes MAXG(W) groups (R8, R80). -/
theorem encBytes_length_of_unsigned_max {w : Width} {x : Int} (h : InRange .unsigned w x)
    (hx : x = 2 ^ widthBits w - 1) : (encBytes w .unsigned x).length = maxGroups w := by
  have hM : 2 ≤ maxGroups w := by cases w <;> decide
  have hW : 7 * (maxGroups w - 2) + 7 < widthBits w := inside_of_lt (by omega)
  have hlt : (2 : Int) ^ (7 * (maxGroups w - 2) + 7) < 2 ^ widthBits w := pow_lt_pow_right₀ (by decide) hW
  refine encBytes_length_eq_maxGroups h ?_
  rw [ne_eq, lastGroup_unsigned_div_iff]
  omega

/-- Both extreme signed values take MAXG(W) groups (R8, R80). -/
theorem encBytes_length_of_signed_extreme {w : Width} {x : Int} (h : InRange .signed w x)
    (hx : x = -(2 ^ (widthBits w - 1)) ∨ x = 2 ^ (widthBits w - 1) - 1) :
    (encBytes w .signed x).length = maxGroups w := by
  have hM : 2 ≤ maxGroups w := by cases w <;> decide
  have hW : 7 * (maxGroups w - 2) + 7 < widthBits w := inside_of_lt (by omega)
  have hlt : (2 : Int) ^ (7 * (maxGroups w - 2) + 6) < 2 ^ (widthBits w - 1) :=
    pow_lt_pow_right₀ (by decide) (by omega)
  refine encBytes_length_eq_maxGroups h ?_
  rw [ne_eq, lastGroup_signed_div_iff]
  omega

end Sys2Proof.Machine
end

section
/-! PROOF. The canonical encoding. -/

namespace Sys2Proof.Proofs

open Sys2Proof.Machine Sys2Proof.Claims

/-- Settles O22: the loop's sequence has the value x, and its length is the first number of groups that can hold x. -/
theorem encodingIsCanonical : Obligations.EncodingIsCanonical := by
  intro w g x h bs hbs
  subst hbs
  refine ⟨isSequence_encBytes h, seqInt_encBytes h, encBytes_length_le_maxGroups h, ?_, ?_,
    fun cs => encBytes_length_le_of_seqInt h, ?_, ?_, ?_⟩
  · rintro rfl
    exact encBytes_length_unsigned h
  · rintro rfl n hn
    exact encBytes_length_signed_iff h hn
  · rintro rfl
    exact encBytes_length_of_unsigned_max h
  · rintro rfl hx
    exact encBytes_length_of_signed_extreme h (.inl hx)
  · rintro rfl hx
    exact encBytes_length_of_signed_extreme h (.inr hx)

end Sys2Proof.Proofs
end

section
/-! PROOF. The encoder's working value and one codec step of an ENC command (R75 to R78). -/

namespace Sys2Proof.Machine

open Sys2Proof.Claims

/-! ### The working value -/

/-- Bit 6 of a pattern, from the integer the pattern stands for. -/
theorem getLsbD_6_iff {W : Nat} (h : 7 ≤ W) (g : Signedness) (a : BitVec W) :
    a.getLsbD 6 = true ↔ 64 ≤ patInt g a % 128 := by
  have hb : a.getLsbD 6 = (lowGroup a).getLsbD 6 := by simp [lowGroup]
  rw [hb, bit6_iff, ← lowGroup_toNat h g a]
  omega

theorem ushiftRight_7_toNat {W : Nat} (a : BitVec W) : (a >>> 7).toNat = a.toNat / 128 := by
  rw [BitVec.toNat_ushiftRight, Nat.shiftRight_eq_div_pow]

theorem ushiftRight_7_eq_zero_iff {W : Nat} (a : BitVec W) : a >>> 7 = 0 ↔ a.toNat ≤ 0x7F := by
  rw [← BitVec.toNat_inj, ushiftRight_7_toNat, BitVec.ofNat_eq_ofNat, BitVec.toNat_zero]
  omega

theorem sshiftRight_7_toInt {W : Nat} (a : BitVec W) : (a.sshiftRight 7).toInt = a.toInt / 128 :=
  patInt_shiftGroup .signed a

theorem sshiftRight_7_eq_zero_iff {W : Nat} (a : BitVec W) : a.sshiftRight 7 = 0 ↔ a.toInt / 128 = 0 := by
  rw [← BitVec.toInt_inj, sshiftRight_7_toInt]
  simp

theorem sshiftRight_7_eq_allOnes_iff {W : Nat} (h : 0 < W) (a : BitVec W) :
    a.sshiftRight 7 = BitVec.allOnes W ↔ a.toInt / 128 = -1 := by
  rw [← BitVec.toInt_inj, sshiftRight_7_toInt, BitVec.toInt_allOnes, if_pos h]

theorem encFinal_unsigned_iff {W : Nat} (a : BitVec W) : encFinal .unsigned a = true ↔ a.toNat ≤ 0x7F :=
  decide_eq_true_iff

theorem encFinal_signed_iff {W : Nat} (a : BitVec W) :
    encFinal .signed a = true ↔ -64 ≤ a.toInt ∧ a.toInt ≤ 63 := by
  simp [encFinal]

/-! ### One codec step -/

/-- On the codec's turn the step is a codec turn, with that turn off the schedule. -/
theorem step_of_codecsTurn {s : State} {turns : List Turn} (h : CodecsTurn s turns) :
    step s = .next (codecTurn { s with schedule := turns }) := by
  rcases h with h | ⟨h, rfl⟩
  · rw [step_cons h]
    rfl
  · rw [step_nil h, ← h]

/-- A codec step of a running ENC command on the codec's turn. -/
theorem step_of_encStep {s t : State} {turns : List Turn} (hr : Running .enc s) (h : CodecsTurn s turns)
    (ht : encStep { s with schedule := turns } = some t) : step s = .next t := by
  obtain ⟨hb, ho⟩ := hr
  rw [step_of_codecsTurn h, codecTurn, codecStep_enc (s := { s with schedule := turns }) hb ho, ht, Option.getD_some]

theorem encByte_of_final {s : State} (h : lastGroup s.sgn (workInt s) = true) :
    encByte s = BitVec.ofInt 8 (workInt s % 128) := by
  rw [encByte_eq, if_pos h]

theorem encByte_of_not_final {s : State} (h : lastGroup s.sgn (workInt s) = false) :
    encByte s = BitVec.ofInt 8 (workInt s % 128 + 128) := by
  rw [encByte_eq, h, if_neg Bool.false_ne_true]

/-- ACC after a non-final group holds the pattern of the remaining integer (R76). -/
theorem accOf_shiftGroup (s : State) :
    accOf (shiftGroup s.sgn s.work) = BitVec.ofInt 128 (workInt s / 128 % 2 ^ widthBits s.wid) := by
  rw [← work_after_shift]
  exact acc_eq_workInt (s := storeWork (accOf (shiftGroup s.sgn s.work)) s) (accOf_lt _)

/-- An ENC step of a state that meets the invariant fails only when the sink does (R81). -/
theorem encStep_outcome {s t : State} (hs : StatusInv s) (hb : s.status.state = .busy) (h : encStep s = some t) :
    t.status.rvalid = false ∧
    (t.status.err = .ok ∨ t.status.err = .ioError ∧ ∃ rest, s.sinkAnswers = .err :: rest) := by
  obtain ⟨hok, hrv, -⟩ := hs
  rcases encStep_cases h with ⟨rest, ha, rfl⟩ | ⟨rest, -, -, rfl⟩ | ⟨rest, -, -, rfl⟩
  · exact ⟨rfl, .inr ⟨rfl, rest, ha⟩⟩
  · exact ⟨rfl, .inl rfl⟩
  · have hv : s.status.rvalid = false := by
      cases hv : s.status.rvalid
      · rfl
      · exact absurd (hb.symm.trans (hrv hv).1) (by decide)
    exact ⟨hv, .inl (hok (by simp [hb]))⟩

theorem exec_commandOf (u : Unit2) (g : Signedness) (ws : WidthSel) (s : State) :
    exec (commandOf u g ws) s = acceptCommand u g (widthOf s.ptrWidth ws) s := by
  cases u <;> cases g <;> cases ws <;> rfl

/-- If PTR_WIDTH names the width of a select, the pointer-width commands do what the commands of that select do. -/
theorem exec_pointer_width {s : State} {ws : WidthSel} (h : widthOf s.ptrWidth .sPtr = widthOf s.ptrWidth ws) :
    exec .encUPtr s = exec (commandOf .enc .unsigned ws) s ∧ exec .encIPtr s = exec (commandOf .enc .signed ws) s ∧
    exec .decUPtr s = exec (commandOf .dec .unsigned ws) s ∧ exec .decIPtr s = exec (commandOf .dec .signed ws) s := by
  have key : ∀ u g, exec (commandOf u g .sPtr) s = exec (commandOf u g ws) s := fun u g => by
    rw [exec_commandOf, exec_commandOf, h]
  exact ⟨key .enc .unsigned, key .enc .signed, key .dec .unsigned, key .dec .signed⟩

end Sys2Proof.Machine
end

section
/-! PROOF. The statements on the encoder's step and on the pointer widths. -/

namespace Sys2Proof.Proofs

open Sys2Proof.Machine Sys2Proof.Claims

/-- Settles O18: the test on the integer the pattern stands for, of which the shift is the quotient by 128 and bit 6 the
upper half of the remainder. -/
theorem encoderStopTest : Obligations.EncoderStopTest := by
  intro w a
  have hW := widthBits_ge w
  have h6 := getLsbD_6_iff (by omega) .signed a
  refine ⟨encFinal_unsigned_iff a, ?_, encFinal_signed_iff a, ?_⟩
  · rw [ushiftRight_7_eq_zero_iff, encFinal_unsigned_iff]
  · rw [encFinal_signed_iff, sshiftRight_7_eq_zero_iff, sshiftRight_7_eq_allOnes_iff (by omega),
      ← Bool.not_eq_true, h6]
    simp only [patInt]
    omega

/-- Settles O19: the shifts divide the pattern's integer, the minimum is below the range of a last group, and the sign
is that of the value of the emitted sequence. -/
theorem encoderShiftsKeepTheSign : Obligations.EncoderShiftsKeepTheSign := by
  intro w
  refine ⟨fun a => ⟨ushiftRight_7_toNat a, sshiftRight_7_toInt a⟩, ?_, ?_, fun x => encBytes_ne_nil,
    fun x => encBytes_sign⟩
  · cases w <;> decide
  · cases w <;> rfl

/-- Settles O20: the answer of the sink and the stop test decide the step; the byte and ACC are those of the working
value's integer. -/
theorem encoderStep : Obligations.EncoderStep := by
  intro s turns hr hturn
  refine ⟨fun rest ha => ?_, fun rest ha hl => ?_, fun rest ha hl => ?_⟩
  · exact ⟨_, _, step_of_encStep hr hturn (encStep_err (s := { s with schedule := turns }) ha)⟩
  · have hstep := step_of_encStep hr hturn
      (encStep_ack_final (s := { s with schedule := turns }) ha ((encIsFinal_eq _).trans hl))
    rw [hstep, encByte_of_final (s := { s with schedule := turns }) hl]
    rfl
  · have hstep := step_of_encStep hr hturn
      (encStep_ack_more (s := { s with schedule := turns }) ha ((encIsFinal_eq _).trans hl))
    rw [hstep, encByte_of_not_final (s := { s with schedule := turns }) hl, ← accOf_shiftGroup]
    rfl

/-- Settles O23: the three ways an ENC step can go. -/
theorem encoderNeverOverflows : Obligations.EncoderNeverOverflows := by
  intro s t hi hr h
  obtain ⟨hst, -⟩ := hi
  obtain ⟨hb, ho⟩ := hr
  rw [codecStep_enc hb ho] at h
  obtain ⟨_, _, _, _, _, _, _, _, hu⟩ := encStep_update h
  obtain ⟨hv, hok | ⟨hio, hsink⟩⟩ := encStep_outcome hst hb h
  · exact ⟨by simp [hok], by rw [hu], hv, fun he => absurd hok he⟩
  · exact ⟨by simp [hio], by rw [hu], hv, fun _ => hsink⟩

/-- Settles O12: acceptance takes the width from the width select alone, and PTR_WIDTH names one of the others. -/
theorem pointerCommandsFollowPtrWidth : Obligations.PointerCommandsFollowPtrWidth := by
  refine fun s => ⟨fun h => ?_, fun h => ?_, fun h => ?_⟩
  · exact exec_pointer_width (ws := .s16) (by rw [h]; rfl)
  · exact exec_pointer_width (ws := .s32) (by rw [h]; rfl)
  · exact exec_pointer_width (ws := .s64) (by rw [h]; rfl)

end Sys2Proof.Proofs
end

section
/-! PROOF. A whole ENC command (R79): what the streams show of a run, byte by byte. -/

namespace Sys2Proof.Machine

open Sys2Proof.Claims

/-- The bytes of the loop are those of the remaining integers, one group apart (R79). -/
theorem encLoop_getElem? {n j : Nat} {g : Signedness} {x : Int} (h : j < (encLoop n g x).length) :
    (encLoop n g x)[j]? = some (loopByte g (x / 2 ^ (7 * j))) := by
  induction n generalizing j x with
  | zero => simp [encLoop] at h
  | succ n ih =>
    cases hl : lastGroup g x
    · rw [encLoop_more hl] at h ⊢
      match j with
      | 0 => simp [loopByte, hl]
      | j + 1 =>
        rw [List.getElem?_cons_succ, ediv_128_groups]
        exact ih (Nat.lt_of_succ_lt_succ h)
    · rw [encLoop_final hl] at h ⊢
      obtain rfl : j = 0 := by simpa using h
      simp [loopByte, hl]

theorem encLoop_take_succ {n j : Nat} {g : Signedness} {x : Int} (h : j < (encLoop n g x).length) :
    (encLoop n g x).take (j + 1) = (encLoop n g x).take j ++ [loopByte g (x / 2 ^ (7 * j))] := by
  rw [List.take_add_one, encLoop_getElem? h, Option.toList_some]

/-- m is t after the sink has acknowledged the bytes `sent`, with the answers `rest` still to come: only ACC and the
number in COUNT are left open. -/
abbrev Transferred (t m : State) (sent : List Byte) (rest : List SinkAnswer) : Prop :=
  m = { t with
    count := m.count, acc := m.acc, lastb := sent.getLastD 0
    sink := t.sink ++ sent, handed := t.handed ++ sent, sinkAnswers := rest }

theorem Transferred.sink_draws_faults {t m : State} {sent : List Byte} {rest : List SinkAnswer}
    (h : Transferred t m sent rest) : m.sink = t.sink ++ sent ∧ m.draws = t.draws ∧ m.faults = t.faults := by
  rw [h]
  exact ⟨rfl, rfl, rfl⟩

theorem Transferred.acknowledge {t m : State} {sent : List Byte} {a : SinkAnswer} {rest : List SinkAnswer}
    (h : Transferred t m sent (a :: rest)) (b : Byte) :
    Transferred t (countByte b { m with sinkAnswers := rest, sink := m.sink ++ [b], handed := m.handed ++ [b] })
      (sent ++ [b]) rest := by
  rw [Transferred, h]
  simp [countByte]

theorem Transferred.after_storeWork {t m : State} {sent : List Byte} {rest : List SinkAnswer}
    (h : Transferred t m sent rest) (next : Value) : Transferred t (storeWork next m) sent rest :=
  congrArg (storeWork next) h

/-- A completion after the bytes `sent`, whatever the sink keeps of them. -/
theorem Transferred.encEnd {t m : State} {sent : List Byte} {answers : List SinkAnswer}
    (h : Transferred t m sent answers) (hc : m.count.toNat = sent.length) (e : ErrCode) (rest : List SinkAnswer)
    (held : List Byte) (drawn : Nat) :
    EncEnd t (complete e { m with sinkAnswers := rest, sink := held, draws := drawn }) e sent rest := by
  rw [h] at hc ⊢
  exact ⟨rfl, hc, rfl, rfl, rfl, rfl, rfl, rfl, rfl, rfl, rfl, rfl⟩

theorem EncRun.encByte_eq {g : Signedness} {w : Width} {x : Int} {j : Nat} {s : State} (h : EncRun g w x j s) :
    encByte s = loopByte g (x / 2 ^ (7 * j)) := by
  rw [Machine.encByte_eq, h.sgn, h.work, loopByte]

theorem EncRun.step_eq {g : Signedness} {w : Width} {x : Int} {j : Nat} {s t : State} (h : EncRun g w x j s)
    (ht : encStep s = some t) : step s = .next t :=
  step_codec h.schedule ((codecStep_enc h.running.1 h.running.2).trans ht)

theorem EncRun.encIsFinal_eq {g : Signedness} {w : Width} {x : Int} {j : Nat} {s : State} (h : EncRun g w x j s) :
    encIsFinal s = lastGroup g (x / 2 ^ (7 * j)) := by
  rw [Machine.encIsFinal_eq, h.sgn, h.work]

/-- As `EncRun.after_steps`, with what the streams show. -/
theorem EncRun.transfers {g : Signedness} {w : Width} {x : Int} {n j : Nat} {t : State} {rest : List SinkAnswer}
    (h : EncRun g w x 0 t) (h0 : t.lastb = 0) (hj : j < (encLoop n g x).length)
    (ha : t.sinkAnswers = List.replicate j .ack ++ rest) :
    ∃ m, steps j t = .next m ∧ EncRun g w x j m ∧ Transferred t m ((encLoop n g x).take j) rest := by
  induction j generalizing rest with
  | zero =>
    refine ⟨t, rfl, h, ?_⟩
    rw [List.replicate_zero, List.nil_append] at ha
    simp [Transferred, ← h0, ← ha]
  | succ j ih =>
    rw [List.replicate_succ', List.append_assoc] at ha
    obtain ⟨m, hm, hrun, htr⟩ := ih (by omega) ha
    have hans : m.sinkAnswers = .ack :: rest := by rw [htr]; rfl
    have hf := lastGroup_of_lt_length hj
    obtain ⟨u, hu, hnext, -⟩ := hrun.next hf hans
    refine ⟨u, steps_succ_last hm hu, hnext, ?_⟩
    rw [hrun.step_eq (encStep_ack_more hans (hrun.encIsFinal_eq.trans hf)), hrun.encByte_eq] at hu
    cases hu
    rw [encLoop_take_succ (by omega)]
    exact (htr.acknowledge _).after_storeWork _

section
variable {g : Signedness} {w : Width} {x : Int} {t : State} {rest : List SinkAnswer}

/-- A run whose sink acknowledges every byte ends OK with the last one. -/
theorem EncRun.ends_ok (h : EncRun g w x 0 t) (h0 : t.lastb = 0) (hx : InRange g w x)
    (ha : t.sinkAnswers = List.replicate (encBytes w g x).length .ack ++ rest) :
    ∃ u, steps (encBytes w g x).length t = .next u ∧ EncEnd t u .ok (encBytes w g x) rest ∧
      u.sink = t.sink ++ encBytes w g x ∧ u.draws = t.draws ∧ u.faults = t.faults := by
  obtain ⟨j, hj⟩ : ∃ j, (encBytes w g x).length = j + 1 := Nat.exists_eq_add_of_le' (encBytes_length_pos hx)
  have hlt : j < (encBytes w g x).length := by omega
  have hM := encBytes_length_le_maxGroups hx
  have hlast := lastGroup_encBytes hx
  rw [hj, Nat.add_sub_cancel] at hlast
  have hbs : (encLoop (widthBits w) g x).take j ++ [loopByte g (x / 2 ^ (7 * j))] = encBytes w g x :=
    (encLoop_take_succ hlt).symm.trans (List.take_of_length_le hj.le)
  rw [hj, List.replicate_succ', List.append_assoc] at ha
  obtain ⟨m, hm, hrun, htr⟩ := h.transfers h0 hlt ha
  have hans : m.sinkAnswers = .ack :: rest := by rw [htr]; rfl
  have hstep := hrun.step_eq (encStep_ack_final hans (hrun.encIsFinal_eq.trans hlast))
  rw [hrun.encByte_eq] at hstep
  have hnew := htr.acknowledge (loopByte g (x / 2 ^ (7 * j)))
  rw [hbs] at hnew
  have hcount : (m.count + 1).toNat = (encBytes w g x).length := by
    rw [count_succ (by rw [hrun.wid, hrun.count_toNat hlt]; omega), hrun.count_toNat hlt, hj]
  exact ⟨_, hj ▸ steps_succ_last hm hstep, hnew.encEnd hcount .ok rest _ _, hnew.sink_draws_faults⟩

/-- A run whose sink fails at byte j offers that byte and ends with IO_ERROR after the j bytes before it. -/
theorem EncRun.ends_ioError {j : Nat} (h : EncRun g w x 0 t) (h0 : t.lastb = 0) (hj : j < (encBytes w g x).length)
    (ha : t.sinkAnswers = List.replicate j .ack ++ .err :: rest) :
    ∃ m u, steps j t = .next m ∧ m.sink = t.sink ++ (encBytes w g x).take j ∧
      Running .enc m ∧ (encBytes w g x)[j]? = some (encByte m) ∧
      steps (j + 1) t = .next u ∧ EncEnd t u .ioError ((encBytes w g x).take j) rest ∧ u.faults = t.faults := by
  obtain ⟨m, hm, hrun, htr⟩ := h.transfers h0 hj ha
  have hans : m.sinkAnswers = .err :: rest := by rw [htr]
  have hcount : m.count.toNat = ((encBytes w g x).take j).length := by
    rw [hrun.count_toNat hj, List.length_take_of_le hj.le]
  obtain ⟨hsink, -, hfaults⟩ := htr.sink_draws_faults
  refine ⟨m, _, hm, hsink, hrun.running, ?_,
    steps_succ_last hm (hrun.step_eq (encStep_err hans)), htr.encEnd hcount .ioError rest _ _, hfaults⟩
  rw [hrun.encByte_eq]
  exact encLoop_getElem? hj

end

/-- What acceptance leaves of the fields that a command's end is compared in (R20, R40). -/
theorem encEnd_of_exec {i : Instr} {s t u : State} {e : ErrCode} {sent : List Byte} {answers : List SinkAnswer}
    (ht : exec i s = .next t) (h : EncEnd t u e sent answers) : EncEnd s u e sent answers := by
  obtain ⟨ho, hw, hr, hp, -, hh, -, hsrc, hsch, hrd, -⟩ := Proofs.acceptanceFrame i s t ht
  rwa [EncEnd, ho, hw, hr, hp, hh, hsrc, hsch, hrd] at h

theorem exec_lastb {i : Instr} {s t : State} (hb : s.status.state ≠ .busy) (ht : exec i s = .next t) :
    t.lastb = 0 := by
  obtain ⟨u, g, hi⟩ := exec_is_acceptance i
  rw [hi] at ht
  rcases acceptCommand_cases u g (commandWidth i s) s with ⟨hbusy, -⟩ | ⟨-, -, -, ha⟩ | ⟨-, -, ha⟩
  · exact absurd hbusy hb
  · cases ha.symm.trans ht
    rfl
  · cases ha.symm.trans ht
    rfl

end Sys2Proof.Machine
end

section
/-! PROOF. The statement on whole ENC commands. -/

namespace Sys2Proof.Proofs

open Sys2Proof.Machine Sys2Proof.Claims

/-- Settles O21: acceptance starts a run, every acknowledged byte takes it one group on, and it ends with the last byte
or with the sink's first ERR. -/
theorem encodeEmitsEncBytes : Obligations.EncodeEmitsEncBytes := by
  intro row hrow s hb hs
  obtain ⟨t, v, ht, hv, hans, hrun⟩ := exec_starts_encRun hrow hb hs
  have h0 := exec_lastb hb ht
  have hsink : t.sink = s.sink := by
    obtain ⟨-, -, -, -, hsink, -⟩ := acceptanceFrame row.1 s t ht
    exact hsink
  refine ⟨t, v, ht, hv, fun bs hbs => ?_⟩
  subst hbs
  rw [← hans, ← hsink]
  refine ⟨fun rest ha => ?_, fun j rest hj ha => ?_⟩
  · obtain ⟨u, hu, hend, hfree⟩ := hrun.ends_ok h0 (operandInt_inRange _ _ _) ha
    exact ⟨u, hu, encEnd_of_exec ht hend, hfree⟩
  · obtain ⟨m, u, hm, hheld, hr, hbyte, hu, hend, hfaults⟩ := hrun.ends_ioError h0 hj ha
    exact ⟨m, u, hm, hheld, hr, hbyte, hu, encEnd_of_exec ht hend, hfaults⟩

end Sys2Proof.Proofs
end

section
/-! PROOF. The decoder's checks and merges (R96 to R103), and one codec step of a DEC command (R95). -/

namespace Sys2Proof.Machine

open Sys2Proof.Claims

/-! ### The groups of a width -/

/-- No width is a multiple of 7 (R96). -/
theorem groups_ne_widthBits (w : Width) (c : Nat) : 7 * c ≠ widthBits w := by
  cases w <;> simp only [widthBits] <;> omega

/-- The one group that is readable and reaches past the width is the last of MAXG(W) (R8, R96). -/
theorem straddles_iff {w : Width} {c : Nat} (h : c < maxGroups w) :
    widthBits w < 7 * c + 7 ↔ c + 1 = maxGroups w := by
  have hr := readable_iff w (c + 1)
  omega

theorem insideBits_of_last {w : Width} {c : Nat} (h : c + 1 = maxGroups w) :
    insideBits w = widthBits w - 7 * c := by
  rw [insideBits, ← h, Nat.add_sub_cancel]

theorem continues_eq_false_iff (b : Byte) : continues b = false ↔ b.toNat < 128 := by
  rw [← Bool.not_eq_true, continues_iff, not_le]

/-! ### The overflow tests -/

/-- A payload is past the width exactly when it has a bit outside the bits that land inside (R99). -/
theorem exceedsUnsigned_iff_inside {W sh : Nat} (h : sh ≤ W) (p : BitVec 7) :
    exceedsUnsigned W sh p = true ↔ 2 ^ (W - sh) ≤ p.toNat := by
  rw [exceedsUnsigned_iff, ← Nat.pow_sub_mul_pow 2 h]
  exact Nat.mul_le_mul_right_iff (by positivity)

theorem exceedsUnsigned_eq_false_iff (W sh : Nat) (p : BitVec 7) :
    exceedsUnsigned W sh p = false ↔ p.toNat * 2 ^ sh < 2 ^ W := by
  rw [← Bool.not_eq_true, exceedsUnsigned_iff, not_le]

theorem shiftRight_ne_zero_iff (n k : Nat) : n >>> k ≠ 0 ↔ 2 ^ k ≤ n := by
  rw [Nat.shiftRight_eq_div_pow, Nat.div_ne_zero_iff]
  simp

/-- The excess bits of a payload are those outside the width of a group that straddles it (R99). -/
theorem exceedsUnsigned_iff_excess {W sh : Nat} (h : sh ≤ W) (p : BitVec 7) :
    exceedsUnsigned W sh p = true ↔ W < sh + 7 ∧ p.toNat >>> (W - sh) ≠ 0 := by
  rw [exceedsUnsigned_iff_inside h, shiftRight_ne_zero_iff]
  refine (and_iff_right_of_imp fun hx => ?_).symm
  have hlt := (Nat.pow_lt_pow_iff_right (by decide)).1 (lt_of_le_of_lt hx p.isLt)
  omega

/-- The signed test of a group that starts at sh: it straddles the width and its excess bits do not agree (R101). -/
theorem exceedsSigned_iff (W sh : Nat) (p : BitVec 7) :
    exceedsSigned W (sh + 7) p = true ↔ W < sh + 7 ∧ ¬ excessAgrees (W - sh) p = true := by
  simp [exceedsSigned, pastWidth]

/-- The signed test on the payload's bits 6 to k-1, as a number (R101). -/
theorem exceedsSigned_iff_shiftRight {W sh : Nat} (h : sh < W) (p : BitVec 7) :
    exceedsSigned W (sh + 7) p = true ↔
      W < sh + 7 ∧ p.toNat >>> (W - sh - 1) ≠ 0 ∧ p.toNat >>> (W - sh - 1) ≠ 2 ^ (8 - (W - sh)) - 1 := by
  rw [exceedsSigned_iff]
  refine and_congr_right fun hlt => ?_
  rw [excessAgrees_iff p (by omega) (by omega), not_or]

theorem excessAgrees_iff_bits {k : Nat} (p : BitVec 7) (h : 1 ≤ k) (h' : k ≤ 6) :
    excessAgrees k p = true ↔ ∀ j, k - 1 ≤ j → j ≤ 6 → p.getLsbD j = p.getLsbD (k - 1) := by
  interval_cases k <;> revert p <;> decide

/-- The excess bits agree exactly when the payload is a sign-extended pattern of k bits (R101). -/
theorem excessAgrees_iff_toInt {k : Nat} (p : BitVec 7) (h : 1 ≤ k) (h' : k ≤ 6) :
    excessAgrees k p = true ↔ -(2 ^ (k - 1)) ≤ p.toInt ∧ p.toInt ≤ 2 ^ (k - 1) - 1 := by
  interval_cases k <;> revert p <;> decide

/-! ### What a DEC step does with a byte, by its branch -/

theorem takeByte_exceeds {b : Byte} {s : State} (hu : s.sgn = .unsigned)
    (hx : exceedsUnsigned (widthBits s.wid) s.shift.toNat (payload b) = true) :
    takeByte b s = raiseOverflow (countByte b s) := by
  simp [takeByte, hu, hx]

theorem takeByte_continues {b : Byte} {s : State}
    (hu : s.sgn = .unsigned → exceedsUnsigned (widthBits s.wid) s.shift.toNat (payload b) = false)
    (hc : continues b = true) : takeByte b s = mergeGroup (payload b) (countByte b s) := by
  simp +contextual [takeByte, hu, hc]

theorem takeByte_final {b : Byte} {s : State}
    (hu : s.sgn = .unsigned → exceedsUnsigned (widthBits s.wid) s.shift.toNat (payload b) = false)
    (hc : continues b = false) :
    takeByte b s = finalize (payload b) (mergeGroup (payload b) (countByte b s)) := by
  simp +contextual [takeByte, hu, hc]

theorem finalize_overflow {p : BitVec 7} {s : State} (hg : s.sgn = .signed)
    (hx : exceedsSigned (widthBits s.wid) s.shift.toNat p = true) : finalize p s = raiseOverflow s := by
  simp [finalize, hg, hx]

theorem finalize_unsigned {p : BitVec 7} {s : State} (hg : s.sgn = .unsigned) :
    finalize p s = finishDec (accOf s.work) s := by
  simp only [finalize, hg, reduceCtorEq, false_and, if_false]
  rfl

theorem finalize_signed {p : BitVec 7} {s : State} (hg : s.sgn = .signed)
    (hx : exceedsSigned (widthBits s.wid) s.shift.toNat p = false) :
    finalize p s = finishDec ((signExtendFrom s.work s.shift.toNat).signExtend 128) s := by
  simp only [finalize, hg, hx, Bool.false_eq_true, and_false, if_false]
  rfl

/-! ### The merge and the result -/

theorem mergeGroup_countByte (b : Byte) (s : State) :
    mergeGroup (payload b) (countByte b s) = { s with
      count := s.count + 1, lastb := b, shift := s.shift + 7
      acc := BitVec.ofNat 128 ((s.acc.toNat % 2 ^ widthBits s.wid) |||
        (b.toNat % 128 * 2 ^ s.shift.toNat % 2 ^ widthBits s.wid)) } := by
  rw [← payload_toNat, ← accOf_merge]
  rfl

theorem signExtend_signExtend {m W n : Nat} (v : BitVec m) (hm : m ≤ W) (hW : W ≤ n) :
    (v.signExtend W).signExtend n = v.signExtend n := by
  apply BitVec.eq_of_toInt_eq
  rw [BitVec.toInt_signExtend_of_le hW, BitVec.toInt_signExtend_of_le hm,
    BitVec.toInt_signExtend_of_le (hm.trans hW)]

/-- The signed result is the sign extension of the bits merged within the width (R30, R102). -/
theorem widen_signExtendFrom (s : State) {sh : Nat} (hs : 0 < sh) :
    (signExtendFrom s.work sh).signExtend 128 = (s.acc.setWidth (min sh (widthBits s.wid))).signExtend 128 := by
  have hW := widthBits_ge s.wid
  have hm : min sh (widthBits s.wid) ≤ widthBits s.wid := Nat.min_le_right _ _
  rw [signExtendFrom_eq s.work hs (by omega), signExtend_signExtend _ hm (widthBits_le _), State.work, accPattern,
    BitVec.setWidth_setWidth_of_le _ hm]

/-! ### A final byte -/

theorem takeByte_final_unsigned {b : Byte} {s : State} (hu : s.sgn = .unsigned)
    (hx : exceedsUnsigned (widthBits s.wid) s.shift.toNat (payload b) = false) (hc : continues b = false) :
    takeByte b s = finishDec (mergeGroup (payload b) (countByte b s)).acc (mergeGroup (payload b) (countByte b s)) := by
  have hu' : (mergeGroup (payload b) (countByte b s)).sgn = .unsigned := hu
  rw [takeByte_final (fun _ => hx) hc, finalize_unsigned hu', work_mergeGroup]
  rfl

theorem takeByte_final_overflow {b : Byte} {s : State} (hg : s.sgn = .signed)
    (hle : s.shift.toNat ≤ widthBits s.wid) (hc : continues b = false)
    (hx : exceedsSigned (widthBits s.wid) (s.shift.toNat + 7) (payload b) = true) :
    takeByte b s = raiseOverflow (mergeGroup (payload b) (countByte b s)) := by
  rw [← shift_succ hle] at hx
  rw [takeByte_final (by simp [hg]) hc]
  exact finalize_overflow hg hx

theorem takeByte_final_signed {b : Byte} {s : State} (hg : s.sgn = .signed)
    (hle : s.shift.toNat ≤ widthBits s.wid) (hc : continues b = false)
    (hx : exceedsSigned (widthBits s.wid) (s.shift.toNat + 7) (payload b) = false) :
    takeByte b s = finishDec
      (((mergeGroup (payload b) (countByte b s)).acc.setWidth
        (min (s.shift.toNat + 7) (widthBits s.wid))).signExtend 128)
      (mergeGroup (payload b) (countByte b s)) := by
  have hsh : (mergeGroup (payload b) (countByte b s)).shift.toNat = s.shift.toNat + 7 := shift_succ hle
  have hg' : (mergeGroup (payload b) (countByte b s)).sgn = .signed := hg
  rw [← hsh] at hx
  rw [takeByte_final (by simp [hg]) hc, finalize_signed hg' hx, widen_signExtendFrom _ (by omega), hsh]
  rfl

/-! ### One codec step -/

theorem codecStep_byte {s : State} {b : Byte} {rest : List SourceAnswer} (hr : Running .dec s)
    (h : s.shift.toNat ≤ widthBits s.wid) (ha : s.sourceAnswers = .byte b :: rest) :
    codecStep s = some (takeByte b { s with sourceAnswers := rest }) :=
  (codecStep_dec hr.1 hr.2).trans (decStep_byte h ha)

/-- A codec step of a running DEC command on the codec's turn. -/
theorem step_of_decStep {s t : State} {turns : List Turn} (hr : Running .dec s) (h : CodecsTurn s turns)
    (ht : decStep { s with schedule := turns } = some t) : step s = .next t := by
  obtain ⟨hb, ho⟩ := hr
  rw [step_of_codecsTurn h, codecTurn, codecStep_dec (s := { s with schedule := turns }) hb ho, ht, Option.getD_some]

end Sys2Proof.Machine
end

section
/-! PROOF. The statements on one codec step of a DEC command (R95, R96, R99, R101). -/

namespace Sys2Proof.Proofs

open Sys2Proof.Machine Sys2Proof.Claims

/-- Settles O25: SHIFT is 7 times COUNT, and the widths lie between the multiples of 7 of MAXG(W). -/
theorem lengthGuard : Obligations.LengthGuard := by
  refine ⟨fun s ⟨hb, ho⟩ h => (codecStep_dec hb ho).trans (decStep_guard h), fun s hi ⟨hb, ho⟩ => ?_⟩
  obtain ⟨-, ⟨hc, -⟩, -, -, hdec, -⟩ := hi
  obtain ⟨hsh, -⟩ := hdec hb ho
  have hne := groups_ne_widthBits s.wid s.count.toNat
  have hread := readable_iff s.wid s.count.toNat
  have hpos := maxGroups_pos s.wid
  rw [hsh]
  exact ⟨hc, by omega, hne, by omega, by omega⟩

/-- Settles O26: the excess bits of the straddling group are those above the k(W) bits that land inside. -/
theorem unsignedPerGroupCheck : Obligations.UnsignedPerGroupCheck := by
  intro s b rest hi hr hu hg ha
  obtain ⟨-, -, -, -, hdec, -⟩ := hi
  obtain ⟨hsh, -⟩ := hdec hr.1 hr.2
  have hc := count_lt_of_readable hsh hg
  rw [← exceedsUnsigned_iff]
  refine ⟨fun hx => ?_, ?_⟩
  · rw [codecStep_byte hr hg ha, takeByte_exceeds (s := { s with sourceAnswers := rest }) hu hx]
    rfl
  · rw [exceedsUnsigned_iff_excess hg, hsh, straddles_iff hc]
    exact and_congr_right fun hlast => by rw [insideBits_of_last hlast]

/-- Settles O27: the signed test decides how the final byte ends the command. -/
theorem signedExcessCheck : Obligations.SignedExcessCheck := by
  intro s b rest hi hr hg hle ha hc
  obtain ⟨-, -, -, -, hdec, -⟩ := hi
  obtain ⟨hsh, -⟩ := hdec hr.1 hr.2
  have hcount := count_lt_of_readable hsh hle
  have hne := groups_ne_widthBits s.wid s.count.toNat
  have htest : exceedsSigned (widthBits s.wid) (s.shift.toNat + 7) (payload b) = true ↔
      s.count.toNat + 1 = maxGroups s.wid ∧ ¬ ∀ j, insideBits s.wid - 1 ≤ j → j ≤ 6 →
        (payload b).getLsbD j = (payload b).getLsbD (insideBits s.wid - 1) := by
    rw [hsh, exceedsSigned_iff, straddles_iff hcount]
    refine and_congr_right fun hlast => ?_
    have hlt := (straddles_iff hcount).2 hlast
    rw [insideBits_of_last hlast, excessAgrees_iff_bits _ (by omega) (by omega)]
  rw [codecStep_byte hr hle ha, ← htest]
  refine ⟨_, rfl, ?_⟩
  cases hx : exceedsSigned (widthBits s.wid) (s.shift.toNat + 7) (payload b)
  · rw [takeByte_final_signed (s := { s with sourceAnswers := rest }) hg hle hc hx]
    simp
  · rw [takeByte_final_overflow (s := { s with sourceAnswers := rest }) hg hle hc hx]
    simp

/-- Settles O24: the guard, the source's answer, and the checks on the byte's payload. -/
theorem decoderStep : Obligations.DecoderStep := by
  intro s turns hr hturn hsh W sh hW hsh'
  subst hW hsh'
  refine ⟨fun hg => ?_, fun rest hle ha => ?_, fun b rest p acc hle ha hp hacc => ?_⟩
  · exact step_of_decStep hr hturn (decStep_guard (s := { s with schedule := turns }) hg)
  · exact step_of_decStep hr hturn (decStep_err (s := { s with schedule := turns }) hle ha)
  · have hstep := step_of_decStep hr hturn (decStep_byte (s := { s with schedule := turns }) hle ha)
    have hlt : s.shift.toNat < widthBits s.wid := by
      have hne := groups_ne_widthBits s.wid (s.shift.toNat / 7)
      omega
    have hmerge := mergeGroup_countByte b { s with schedule := turns, sourceAnswers := rest }
    subst hp hacc
    rw [hstep, ← payload_toNat, ← exceedsUnsigned_iff, ← exceedsUnsigned_eq_false_iff, ← continues_iff,
      ← continues_eq_false_iff]
    refine ⟨fun hu hx => ?_, fun hu hc => ?_, fun hu hx hc => ?_, fun hg hc hx => ?_, fun hg hc hx => ?_⟩
    · rw [takeByte_exceeds (s := { s with schedule := turns, sourceAnswers := rest }) hu hx]
      rfl
    · rw [takeByte_continues (s := { s with schedule := turns, sourceAnswers := rest }) hu hc, hmerge, payload_toNat]
    · rw [takeByte_final_unsigned (s := { s with schedule := turns, sourceAnswers := rest }) hu hx hc, hmerge,
        payload_toNat]
      rfl
    · rw [takeByte_final_overflow (s := { s with schedule := turns, sourceAnswers := rest }) hg hle hc
        ((exceedsSigned_iff_shiftRight hlt _).2 hx), hmerge, payload_toNat]
      rfl
    · have hx' : exceedsSigned (widthBits s.wid) (s.shift.toNat + 7) (payload b) = false := by
        rw [← Bool.not_eq_true, exceedsSigned_iff_shiftRight hlt]
        omega
      rw [takeByte_final_signed (s := { s with schedule := turns, sourceAnswers := rest }) hg hle hc hx', hmerge,
        payload_toNat, BitVec.setWidth_ofNat_of_le (le_trans (Nat.min_le_right _ _) (widthBits_le _))]
      rfl

end Sys2Proof.Proofs
end

section
/-! PROOF. The value of a whole sequence beside the decoder's checks and result (R99, R101 to R103, R105). -/

namespace Sys2Proof.Machine

open Sys2Proof.Claims

/-! ### Ranges above the low bits -/

theorem le_pow_sub_one_iff_ediv (x : Int) (k n : Nat) : x ≤ 2 ^ (k + n) - 1 ↔ x / 2 ^ n ≤ 2 ^ k - 1 := by
  rw [Int.le_sub_one_iff, Int.le_sub_one_iff, Int.ediv_lt_iff_lt_mul (by positivity), pow_add]

theorem neg_pow_le_iff_ediv (x : Int) (k n : Nat) : -(2 ^ (k + n)) ≤ x ↔ -(2 ^ k) ≤ x / 2 ^ n := by
  rw [Int.le_ediv_iff_mul_le (by positivity), neg_mul, pow_add]

/-- What is left of a sequence's value above all its groups but the last is the last payload (R69, R70). -/
theorem seqInt_append_ediv (g : Signedness) (cs : List Byte) (b : Byte) :
    seqInt g (cs ++ [b]) / 2 ^ (7 * cs.length) = patInt g (payload b) := by
  have hlt : (seqValue cs : Int) < 2 ^ (7 * cs.length) := by exact_mod_cast seqValue_lt cs
  rw [seqInt_append, Int.add_mul_ediv_left _ _ (by positivity), Int.ediv_eq_zero_of_lt (by positivity) hlt, zero_add]

/-! ### The overflow tests say whether the value fits (R105) -/

theorem unsigned_inRange_iff (w : Width) (bs : List Byte) :
    InRange .unsigned w (seqInt .unsigned bs) ↔ seqValue bs < 2 ^ widthBits w := by
  have hc : ((2 ^ widthBits w : Nat) : Int) = 2 ^ widthBits w := by push_cast; rfl
  simp only [InRange, seqInt, ← hc]
  omega

theorem exceedsUnsigned_iff_not_inRange {w : Width} {cs : List Byte} (h : 7 * cs.length ≤ widthBits w) (b : Byte) :
    exceedsUnsigned (widthBits w) (7 * cs.length) (payload b) = true ↔
      ¬ InRange .unsigned w (seqInt .unsigned (cs ++ [b])) := by
  have hv : seqValue (cs ++ [b]) / 2 ^ (7 * cs.length) = (payload b).toNat := by
    rw [seqValue_append, Nat.add_mul_div_left _ _ (by positivity), Nat.div_eq_of_lt (seqValue_lt cs), zero_add]
  rw [exceedsUnsigned_iff_inside h, unsigned_inRange_iff, ← hv, ← not_lt, Nat.div_lt_iff_lt_mul (by positivity),
    Nat.pow_sub_mul_pow 2 h]

/-- The signed test on a payload is the range of the bits that land inside the width, also of a group that ends inside. -/
theorem exceedsSigned_iff_toInt {W sh : Nat} (h : sh < W) (p : BitVec 7) :
    exceedsSigned W (sh + 7) p = true ↔ ¬ (-(2 ^ (W - sh - 1)) ≤ p.toInt ∧ p.toInt ≤ 2 ^ (W - sh - 1) - 1) := by
  rw [exceedsSigned_iff]
  rcases Nat.lt_or_ge W (sh + 7) with hlt | hge
  · rw [excessAgrees_iff_toInt p (by omega) (by omega)]
    exact and_iff_right hlt
  · have hp : (2 : Int) ^ 6 ≤ 2 ^ (W - sh - 1) := pow_le_pow_right₀ (by decide) (by omega)
    have hlo := BitVec.le_toInt p
    have hhi := BitVec.toInt_lt (x := p)
    refine iff_of_false (by omega) (not_not.2 ⟨by omega, by omega⟩)

theorem exceedsSigned_iff_not_inRange {w : Width} {cs : List Byte} (h : 7 * cs.length < widthBits w) (b : Byte) :
    exceedsSigned (widthBits w) (7 * cs.length + 7) (payload b) = true ↔
      ¬ InRange .signed w (seqInt .signed (cs ++ [b])) := by
  have hW : widthBits w - 1 = widthBits w - 7 * cs.length - 1 + 7 * cs.length := by omega
  rw [exceedsSigned_iff_toInt h, InRange, hW, le_pow_sub_one_iff_ediv, neg_pow_le_iff_ediv, seqInt_append_ediv]
  rfl

/-- A sequence of fewer than MAXG(W) groups fits the width (R105). -/
theorem inRange_of_short {g : Signedness} {w : Width} {bs : List Byte} (hne : bs ≠ []) (h : bs.length < maxGroups w) :
    InRange g w (seqInt g bs) := by
  obtain ⟨cs, b, rfl⟩ := List.eq_nil_or_concat' bs |>.resolve_left hne
  rw [List.length_append, List.length_singleton] at h
  have hW := inside_of_lt h
  cases g
  case unsigned =>
    rw [unsigned_inRange_iff]
    have hv := seqValue_lt (cs ++ [b])
    rw [List.length_append, List.length_singleton] at hv
    exact hv.trans_le (Nat.pow_le_pow_right (by decide) hW.le)
  case signed =>
    by_contra hx
    rw [← exceedsSigned_iff_not_inRange (by omega), exceedsSigned_iff] at hx
    omega

/-! ### The result is the value (R102, R103) -/

/-- An integer in the signed range of m bits is its m-bit pattern, sign-extended. -/
theorem signExtend_ofInt {x : Int} {m n : Nat} (hm : 0 < m) (hn : m ≤ n) (hlo : -(2 ^ (m - 1)) ≤ x)
    (hhi : x ≤ 2 ^ (m - 1) - 1) : (BitVec.ofInt m x).signExtend n = BitVec.ofInt n x := by
  have hfits : ∀ k, m ≤ k → x.bmod (2 ^ k) = x := fun k hk => by
    obtain ⟨j, rfl⟩ := Nat.exists_eq_add_of_le' (hm.trans_le hk)
    have hp : (2 : Int) ^ (m - 1) ≤ 2 ^ j := pow_le_pow_right₀ (by decide) (by omega)
    apply Int.bmod_eq_of_le <;> push_cast <;> rw [pow_succ] <;> omega
  apply BitVec.eq_of_toInt_eq
  rw [BitVec.toInt_signExtend_of_le hn, BitVec.toInt_ofInt, BitVec.toInt_ofInt, hfits m le_rfl, hfits n hn]

/-- The sign of a sequence lies above all its payload bits (R70). -/
theorem ofInt_seqInt_signed {bs : List Byte} {m : Nat} (hm : m ≤ 7 * bs.length) :
    BitVec.ofInt m (seqInt .signed bs) = BitVec.ofNat m (seqValue bs) := by
  obtain ⟨d, hd⟩ := Nat.exists_eq_add_of_le hm
  have hp : (2 : Int) ^ (7 * bs.length) = (2 ^ m : Nat) * 2 ^ d := by rw [hd, pow_add]; push_cast; rfl
  rw [← BitVec.ofInt_natCast]
  apply BitVec.eq_of_toInt_eq
  rw [BitVec.toInt_ofInt, BitVec.toInt_ofInt]
  simp only [seqInt, seqValueSigned]
  split
  · rw [hp, Int.sub_mul_bmod_self_left]
  · rw [sub_zero]

/-- A signed sequence is in the range of its payload bits (R70). -/
theorem seqInt_signed_range {bs : List Byte} (hne : bs ≠ []) :
    -(2 ^ (7 * bs.length - 1)) ≤ seqInt .signed bs ∧ seqInt .signed bs ≤ 2 ^ (7 * bs.length - 1) - 1 := by
  have hpos := List.length_pos_of_ne_nil hne
  have h := lastGroup_seqInt .signed hne
  rwa [lastGroup_signed_div_iff, show 7 * (bs.length - 1) + 6 = 7 * bs.length - 1 by omega] at h

theorem unsigned_result {w : Width} {bs : List Byte} (h : InRange .unsigned w (seqInt .unsigned bs)) {acc : Value}
    (ha : acc.toNat = seqValue bs % 2 ^ widthBits w) : acc = resultOf (seqInt .unsigned bs) := by
  rw [unsigned_inRange_iff] at h
  rw [Nat.mod_eq_of_lt h] at ha
  rw [resultOf, seqInt, ← ha, BitVec.ofInt_natCast, BitVec.ofNat_toNat, BitVec.setWidth_eq]

theorem signed_result {w : Width} {bs : List Byte} (hne : bs ≠ []) (h : InRange .signed w (seqInt .signed bs))
    {acc : Value} (ha : acc.toNat = seqValue bs % 2 ^ widthBits w) :
    (acc.setWidth (min (7 * bs.length) (widthBits w))).signExtend 128 = resultOf (seqInt .signed bs) := by
  have hW := widthBits_ge w
  have hW' := widthBits_le w
  have hpos := List.length_pos_of_ne_nil hne
  have hpat : acc.setWidth (min (7 * bs.length) (widthBits w)) =
      BitVec.ofInt (min (7 * bs.length) (widthBits w)) (seqInt .signed bs) := by
    rw [ofInt_seqInt_signed (Nat.min_le_left _ _)]
    apply BitVec.eq_of_toNat_eq
    rw [BitVec.toNat_setWidth, BitVec.toNat_ofNat, ha,
      Nat.mod_mod_of_dvd _ (pow_dvd_pow 2 (Nat.min_le_right _ _))]
  have hrange := seqInt_signed_range hne
  rw [hpat]
  rcases Nat.le_total (7 * bs.length) (widthBits w) with hle | hle
  · rw [Nat.min_eq_left hle]
    exact signExtend_ofInt (by omega) (by omega) hrange.1 hrange.2
  · rw [Nat.min_eq_right hle]
    exact signExtend_ofInt (by omega) hW' h.1 h.2

end Sys2Proof.Machine
end

section
/-! PROOF. A whole DEC command (R105): the bytes it takes one by one, and how it ends. -/

namespace Sys2Proof.Machine

open Sys2Proof.Claims

/-! ### What the bytes taken leave -/

/-- m is t after the bytes `taken` have been read, with the answers `rest` still to come: only ACC, SHIFT and the number
in COUNT are left open. -/
abbrev Received (t m : State) (taken : List Byte) (rest : List SourceAnswer) : Prop :=
  m = { t with
    count := m.count, acc := m.acc, shift := m.shift, lastb := taken.getLastD 0, sourceAnswers := rest }

section
variable {t m : State} {taken : List Byte} {answers : List SourceAnswer}

theorem Received.sourceAnswers_eq (h : Received t m taken answers) : m.sourceAnswers = answers := by rw [h]

theorem Received.with_answers (h : Received t m taken answers) (rest : List SourceAnswer) :
    Received t { m with sourceAnswers := rest } taken rest := by
  rw [Received, h]

theorem Received.take (h : Received t m taken answers) (b : Byte) (rest : List SourceAnswer) :
    Received t (countByte b { m with sourceAnswers := rest }) (taken ++ [b]) rest := by
  rw [Received, h]
  simp [countByte]

theorem Received.after_mergeGroup (h : Received t m taken answers) (p : BitVec 7) :
    Received t (mergeGroup p m) taken answers := by
  rw [Received, mergeGroup, h]

/-- A completion without a result after the bytes `taken` (R122, R123). -/
theorem Received.decEnd_complete (h : Received t m taken answers) (hc : m.count.toNat = taken.length) (e : ErrCode) :
    DecEnd t (complete e m) { state := .done, err := e, rvalid := false } t.result taken answers := by
  rw [h] at hc ⊢
  exact ⟨rfl, rfl, hc, rfl, rfl, rfl, rfl, rfl, rfl, rfl, rfl, rfl, rfl, rfl, rfl⟩

/-- A completion with a result after the bytes `taken` (R121). -/
theorem Received.decEnd_finishDec (h : Received t m taken answers) (hc : m.count.toNat = taken.length) (v : Value) :
    DecEnd t (finishDec v m) { state := .done, err := .ok, rvalid := true } v taken answers := by
  rw [h] at hc ⊢
  exact ⟨rfl, rfl, hc, rfl, rfl, rfl, rfl, rfl, rfl, rfl, rfl, rfl, rfl, rfl, rfl⟩

end

/-! ### The groups of a run -/

section
variable {g : Signedness} {w : Width} {cs bs : List Byte} {b : Byte} {t m u : State} {rest : List SourceAnswer}

theorem DecRun.with_answers (h : DecRun g w cs m) (rest : List SourceAnswer) :
    DecRun g w cs { m with sourceAnswers := rest } :=
  ⟨h.running, h.sgn, h.wid, h.count, h.shift, h.acc, h.schedule⟩

theorem DecRun.step_eq (h : DecRun g w cs m) (hu : decStep m = some u) : step m = .next u :=
  step_codec h.schedule ((codecStep_dec h.running.1 h.running.2).trans hu)

theorem DecRun.readable (h : DecRun g w cs m) (hlen : cs.length < maxGroups w) : m.shift.toNat ≤ widthBits m.wid := by
  rw [h.shift, h.wid, readable_iff]
  exact hlen

theorem DecRun.step_byte (h : DecRun g w cs m) (hlen : cs.length < maxGroups w)
    (ha : m.sourceAnswers = .byte b :: rest) : step m = .next (takeByte b { m with sourceAnswers := rest }) :=
  h.step_eq (decStep_byte (h.readable hlen) ha)

theorem DecRun.count_succ (h : DecRun g w cs m) (hlen : cs.length < maxGroups w) :
    (m.count + 1).toNat = (cs ++ [b]).length := by
  rw [Machine.count_succ (by rw [h.count, h.wid]; exact hlen), h.count, List.length_append, List.length_singleton]

/-- While fewer than MAXG(W) groups have come, none is past the width. -/
theorem seqValue_lt_of_short (hlen : cs.length < maxGroups w) : seqValue cs < 2 ^ widthBits w :=
  (seqValue_lt cs).trans_le (Nat.pow_le_pow_right (by decide) ((readable_iff w _).2 hlen))

/-- A byte after which the command still runs has been merged. -/
theorem takeByte_of_running (h : (takeByte b m).status.state ≠ .done) :
    takeByte b m = mergeGroup (payload b) (countByte b m) := by
  rcases takeByte_cases b m with ⟨-, -, ht⟩ | ⟨-, -, ht⟩ | ⟨-, -, ht⟩
  · exact absurd (by rw [ht]; rfl) h
  · exact ht
  · rcases finalize_cases (payload b) (mergeGroup (payload b) (countByte b m)) with ⟨-, -, hf⟩ | ⟨-, hf⟩
    · exact absurd (by rw [ht, hf]; rfl) h
    · exact absurd (by rw [ht, hf]; rfl) h

/-- A group that takes the run one group on has been merged. -/
theorem DecRun.received_next (h : DecRun g w cs m) (hlen : cs.length < maxGroups w)
    (hr : Received t m cs (.byte b :: rest)) (hu : step m = .next u) (hnext : DecRun g w (cs ++ [b]) u) :
    Received t u (cs ++ [b]) rest := by
  have hstep := h.step_byte hlen hr.sourceAnswers_eq
  obtain rfl : takeByte b { m with sourceAnswers := rest } = u := by
    rw [hstep] at hu
    exact Host.Outcome.next.inj hu
  rw [takeByte_of_running (by simp [hnext.running.1])]
  exact (hr.take b rest).after_mergeGroup _

/-- As `DecRun.after_steps`, with all that the bytes leave unchanged. -/
theorem DecRun.receives (h : DecRun g w [] t) (h0 : t.lastb = 0) (hlen : cs.length ≤ maxGroups w)
    (hc : cs.all continues = true) (hu : g = .unsigned → seqValue cs < 2 ^ widthBits w)
    (ha : t.sourceAnswers = cs.map .byte ++ rest) :
    ∃ m, steps cs.length t = .next m ∧ DecRun g w cs m ∧ Received t m cs rest := by
  induction cs using List.reverseRecOn generalizing rest with
  | nil =>
    refine ⟨t, rfl, h, ?_⟩
    rw [List.map_nil, List.nil_append] at ha
    simp [Received, ← h0, ← ha]
  | append_singleton ds b ih =>
    rw [List.length_append, List.length_singleton] at hlen ⊢
    rw [List.all_append, Bool.and_eq_true] at hc
    rw [List.map_append, List.append_assoc] at ha
    obtain ⟨m, hm, hrun, hrec⟩ := ih (by omega) hc.1 (fun _ => seqValue_lt_of_short hlen) ha
    obtain ⟨u, hstep, hnext, -⟩ := hrun.next hlen (by simpa using hc.2) hu hrec.sourceAnswers_eq
    exact ⟨u, steps_succ_last hm hstep, hnext, hrun.received_next hlen hrec hstep hnext⟩

/-! ### The ends of a run -/

/-- A source that fails after continuing groups ends the run with IO_ERROR (R105, case 1). -/
theorem DecRun.ends_ioError (h : DecRun g w [] t) (h0 : t.lastb = 0) (hlen : cs.length < maxGroups w)
    (hc : cs.all continues = true) (ha : t.sourceAnswers = cs.map .byte ++ .err :: rest) :
    ∃ u, steps (cs.length + 1) t = .next u ∧
      DecEnd t u { state := .done, err := .ioError, rvalid := false } t.result cs rest := by
  obtain ⟨m, hm, hrun, hrec⟩ := h.receives h0 hlen.le hc (fun _ => seqValue_lt_of_short hlen) ha
  exact ⟨_, steps_succ_last hm (hrun.step_eq (decStep_err (hrun.readable hlen) hrec.sourceAnswers_eq)),
    (hrec.with_answers rest).decEnd_complete hrun.count .ioError⟩

/-- MAXG(W) continuing groups end the run with Overflow: if they are past an unsigned width at the last of them, else at
the guard (R105, case 2). -/
theorem DecRun.ends_tooLong (h : DecRun g w [] t) (h0 : t.lastb = 0) (hlen : cs.length = maxGroups w)
    (hc : cs.all continues = true) (ha : t.sourceAnswers = cs.map .byte ++ rest) :
    ∃ u, steps (cs.length + 1) t = .next u ∧
      DecEnd t u { state := .done, err := .overflow, rvalid := false } t.result cs rest := by
  by_cases hfit : g = .unsigned → seqValue cs < 2 ^ widthBits w
  case pos =>
    obtain ⟨m, hm, hrun, hrec⟩ := h.receives h0 hlen.le hc hfit ha
    have hguard : widthBits m.wid < m.shift.toNat := by
      have hr := readable_iff w cs.length
      rw [hrun.shift, hrun.wid]
      omega
    exact ⟨_, steps_succ_last hm (hrun.step_eq (decStep_guard hguard)), hrec.decEnd_complete hrun.count .overflow⟩
  case neg =>
    obtain ⟨hg, hx⟩ : g = .unsigned ∧ ¬ seqValue cs < 2 ^ widthBits w := Classical.not_imp.1 hfit
    obtain ⟨ds, b, rfl⟩ := List.eq_nil_or_concat' cs |>.resolve_left fun hn => hx (by simp [hn, seqValue])
    rw [List.length_append, List.length_singleton] at hlen ⊢
    rw [List.all_append, Bool.and_eq_true] at hc
    rw [List.map_append, List.append_assoc, List.map_singleton, List.singleton_append] at ha
    have hlt : ds.length < maxGroups w := by omega
    obtain ⟨m, hm, hrun, hrec⟩ := h.receives h0 hlt.le hc.1 (fun _ => seqValue_lt_of_short hlt) ha
    have hpast : exceedsUnsigned (widthBits m.wid) m.shift.toNat (payload b) = true := by
      rw [hrun.shift, hrun.wid, exceedsUnsigned_iff_not_inRange ((readable_iff w _).2 hlt), unsigned_inRange_iff]
      exact hx
    have hend := (hrec.take b rest).decEnd_complete (hrun.count_succ hlt) .overflow
    have hstep := hrun.step_byte hlt hrec.sourceAnswers_eq
    rw [takeByte_exceeds (s := { m with sourceAnswers := rest }) (hrun.sgn.trans hg) hpast] at hstep
    refine ⟨_, ?_, hend⟩
    rw [steps_add (steps_succ_last hm hstep)]
    exact steps_at_rest (s := raiseOverflow (countByte b { m with sourceAnswers := rest })) (by simp) hrun.schedule 1

/-- ACC after the merge of one more group (R98). -/
theorem DecRun.acc_mergeGroup (h : DecRun g w cs m) (b : Byte) :
    (mergeGroup (payload b) (countByte b m)).acc.toNat = seqValue (cs ++ [b]) % 2 ^ widthBits w := by
  have hbelow : m.acc.toNat < 2 ^ m.shift.toNat := by
    rw [h.acc, h.shift]
    exact (Nat.mod_le _ _).trans_lt (seqValue_lt cs)
  refine (accOf_merge_toNat m (payload b) hbelow).trans ?_
  rw [h.acc, h.wid, Nat.mod_add_mod, h.shift, seqValue_append, Nat.mul_comm (payload b).toNat]

/-- What the final byte of a sequence does: its value is the result, or the value does not fit (R105, cases 3 and 4). -/
theorem DecRun.takeByte_final (h : DecRun g w cs m) (hlen : cs.length < maxGroups w) (hc : continues b = false) :
    (¬ InRange g w (seqInt g (cs ++ [b])) ∧ (takeByte b m = raiseOverflow (countByte b m) ∨
      takeByte b m = raiseOverflow (mergeGroup (payload b) (countByte b m)))) ∨
    (InRange g w (seqInt g (cs ++ [b])) ∧
      takeByte b m = finishDec (resultOf (seqInt g (cs ++ [b]))) (mergeGroup (payload b) (countByte b m))) := by
  have hle := h.readable hlen
  have hread : 7 * cs.length ≤ widthBits w := (readable_iff w _).2 hlen
  have hacc := h.acc_mergeGroup b
  have hw := h.wid
  subst hw
  cases g
  case unsigned =>
    have htest := exceedsUnsigned_iff_not_inRange hread b
    rw [← h.shift] at htest
    cases hx : exceedsUnsigned (widthBits m.wid) m.shift.toNat (payload b)
    · have hfit := of_not_not (htest.not.1 (by simp [hx]))
      rw [← unsigned_result hfit hacc]
      exact .inr ⟨hfit, takeByte_final_unsigned h.sgn hx hc⟩
    · exact .inl ⟨htest.1 hx, .inl (takeByte_exceeds h.sgn hx)⟩
  case signed =>
    have htest := exceedsSigned_iff_not_inRange (lt_of_le_of_ne hread (groups_ne_widthBits _ _)) b
    rw [← h.shift] at htest
    cases hx : exceedsSigned (widthBits m.wid) (m.shift.toNat + 7) (payload b)
    · have hfit := of_not_not (htest.not.1 (by simp [hx]))
      have hlen' : m.shift.toNat + 7 = 7 * (cs ++ [b]).length := by
        rw [h.shift, List.length_append, List.length_singleton, Nat.mul_add]
      rw [← signed_result (by simp) hfit hacc, ← hlen']
      exact .inr ⟨hfit, takeByte_final_signed h.sgn hle hc hx⟩
    · exact .inl ⟨htest.1 hx, .inr (takeByte_final_overflow h.sgn hle hc hx)⟩

/-- A sequence of at most MAXG(W) groups ends the run with its last byte: with Overflow if its value does not fit, else
with the value (R105, cases 3 and 4). -/
theorem DecRun.ends_sequence (h : DecRun g w [] t) (h0 : t.lastb = 0) (hs : isSequence bs = true)
    (hlen : bs.length ≤ maxGroups w) (ha : t.sourceAnswers = bs.map .byte ++ rest) :
    ∃ u, steps bs.length t = .next u ∧
      ((¬ InRange g w (seqInt g bs) ∧
        DecEnd t u { state := .done, err := .overflow, rvalid := false } t.result bs rest) ∨
      (InRange g w (seqInt g bs) ∧
        DecEnd t u { state := .done, err := .ok, rvalid := true } (resultOf (seqInt g bs)) bs rest)) := by
  obtain ⟨cs, b, rfl, hcs, hb⟩ := isSequence_split hs
  rw [List.map_append, List.append_assoc, List.map_singleton, List.singleton_append] at ha
  rw [List.length_append, List.length_singleton] at hlen
  obtain ⟨m, hm, hrun, hrec⟩ := h.receives h0 (by omega) hcs (fun _ => seqValue_lt_of_short hlen) ha
  have hsteps := steps_succ_last hm (hrun.step_byte hlen hrec.sourceAnswers_eq)
  have hcount := hrun.count_succ (b := b) hlen
  have htaken := hrec.take b rest
  refine ⟨_, by rwa [List.length_append, List.length_singleton], ?_⟩
  rcases (hrun.with_answers rest).takeByte_final hlen hb with ⟨hx, ht | ht⟩ | ⟨hx, ht⟩ <;> rw [ht]
  · exact .inl ⟨hx, htaken.decEnd_complete hcount .overflow⟩
  · exact .inl ⟨hx, (htaken.after_mergeGroup _).decEnd_complete hcount .overflow⟩
  · exact .inr ⟨hx, (htaken.after_mergeGroup _).decEnd_finishDec hcount _⟩

end

/-- What acceptance leaves of the fields that a DEC command's end is compared in (R20, R40). -/
theorem decEnd_of_exec {row : Instr × Signedness × WidthSel} (hrow : row ∈ decTable) {s t u : State} {st : Status}
    {v : Value} {taken : List Byte} {answers : List SourceAnswer} (ht : exec row.1 s = .next t)
    (h : DecEnd t u st v taken answers) : DecEnd s u st v taken answers := by
  obtain ⟨ho, hw, -, hp, hsink, hh, hans, -, hsch, hrd, hfree, -⟩ := Proofs.acceptanceFrame row.1 s t ht
  obtain ⟨hd, hf⟩ := hfree (.inr ⟨row, hrow, rfl⟩)
  rwa [DecEnd, ho, hw, hp, hsink, hh, hans, hsch, hrd, hd, hf] at h

theorem exec_result {i : Instr} {s t : State} (ht : exec i s = .next t) : t.result = s.result := by
  obtain ⟨-, -, hr, -⟩ := Proofs.acceptanceFrame i s t ht
  exact hr

end Sys2Proof.Machine
end

section
/-! PROOF. The statements on whole DEC commands. -/

namespace Sys2Proof.Proofs

open Sys2Proof.Machine Sys2Proof.Claims

/-- Settles O28: acceptance starts a run, every continuing byte takes it one group on, and it ends with the source's ERR,
with the MAXG(W)-th continuing byte, or with the final byte, whose test says whether the value fits. -/
theorem decodeOutcomes : Obligations.DecodeOutcomes := by
  refine ⟨fun g w bs hs hlen => inRange_of_short (isSequence_ne_nil hs) hlen, fun row hrow s hb hsch => ?_⟩
  obtain ⟨t, ht, hans, hrun⟩ := exec_starts_decRun hrow hb hsch
  have h0 := exec_lastb hb ht
  refine ⟨t, ht, fun w hw => ?_⟩
  subst hw
  rw [← hans, ← exec_result ht]
  refine ⟨fun bs rest hlen hc ha => ?_, fun bs rest hlen hc ha => ?_, fun bs rest hs hlen ha hx => ?_,
    fun bs rest hs hlen ha hx => ?_⟩
  · obtain ⟨u, hu, hend⟩ := hrun.ends_ioError h0 hlen hc ha
    exact ⟨u, hu, decEnd_of_exec hrow ht hend⟩
  · obtain ⟨u, hu, hend⟩ := hrun.ends_tooLong h0 hlen hc ha
    exact ⟨u, hu, decEnd_of_exec hrow ht hend⟩
  · obtain ⟨u, hu, ⟨-, hend⟩ | ⟨hin, -⟩⟩ := hrun.ends_sequence h0 hs hlen ha
    · exact ⟨u, hu, decEnd_of_exec hrow ht hend⟩
    · exact absurd hin hx
  · obtain ⟨u, hu, ⟨hout, -⟩ | ⟨-, hend⟩⟩ := hrun.ends_sequence h0 hs hlen ha
    · exact absurd hx hout
    · exact ⟨u, hu, decEnd_of_exec hrow ht hend⟩

/-- A DEC command that reads a sequence whose value fits ends with the value (R105, case 4). -/
theorem decode_sequence {row : Instr × Signedness × WidthSel} (hrow : row ∈ decTable) {s : State}
    (hb : s.status.state ≠ .busy) (hsch : s.schedule = []) {bs : List Byte} (hs : isSequence bs = true)
    (hlen : bs.length ≤ maxGroups (widthOf s.ptrWidth row.2.2))
    (hx : InRange row.2.1 (widthOf s.ptrWidth row.2.2) (seqInt row.2.1 bs)) {rest : List SourceAnswer}
    (ha : s.sourceAnswers = bs.map .byte ++ rest) :
    ∃ t u, exec row.1 s = .next t ∧ steps bs.length t = .next u ∧
      DecEnd s u { state := .done, err := .ok, rvalid := true } (resultOf (seqInt row.2.1 bs)) bs rest := by
  obtain ⟨t, ht, hall⟩ := decodeOutcomes.2 row hrow s hb hsch
  obtain ⟨-, -, -, hok⟩ := hall _ rfl
  obtain ⟨u, hu, hend⟩ := hok bs rest hs hlen ha hx
  exact ⟨t, u, ht, hu, hend⟩

/-- Settles O29: `EncBytes` is a sequence of at most MAXG(W) groups with the value x. -/
theorem decodeOfEncodeIsTheInteger : Obligations.DecodeOfEncodeIsTheInteger := by
  intro row hrow s x rest hb hsch hx bs hbs ha
  subst hbs
  have hv := seqInt_encBytes hx
  have h := decode_sequence hrow hb hsch (isSequence_encBytes hx) (encBytes_length_le_maxGroups hx) (by rwa [hv]) ha
  rwa [hv] at h

end Sys2Proof.Proofs
end

section
/-! PROOF. Redundant groups keep the value (R106). -/

namespace Sys2Proof.Machine

open Sys2Proof.Claims

/-- The payload of a redundant group after a sequence of the value x: its sign, seven times over (R106). -/
def fillByte (x : Int) : Byte := if x < 0 then 0x7F#8 else 0x00#8

theorem continues_fillByte (x : Int) : continues (fillByte x) = false := by
  unfold fillByte
  split <;> decide

theorem continues_setFlag (b : Byte) : continues (b ||| 0x80) = true := by
  revert b; decide

theorem payload_setFlag (b : Byte) : payload (b ||| 0x80) = payload b := by
  revert b; decide

theorem isSequence_append {cs : List Byte} {b : Byte} (hc : cs.all continues = true) (hb : continues b = false) :
    isSequence (cs ++ [b]) = true := by
  induction cs with
  | nil => simp [isSequence, hb]
  | cons c cs ih =>
    rw [List.all_cons, Bool.and_eq_true] at hc
    obtain ⟨d, ds, hd⟩ := List.exists_cons_of_ne_nil (show cs ++ [b] ≠ [] by simp)
    rw [List.cons_append, hd, isSequence, ← hd, hc.1, ih hc.2]
    rfl

/-- A sequence's value is that of its payloads and of the sign above them (R69, R70). -/
theorem seqInt_eq_fill (g : Signedness) (bs : List Byte) :
    seqInt g bs = seqValue bs + 2 ^ (7 * bs.length) * patInt g (payload (fillByte (seqInt g bs))) := by
  cases g
  case unsigned =>
    have hfill : fillByte (seqInt .unsigned bs) = 0x00#8 := if_neg (by simp [seqInt])
    rw [hfill]
    simp [seqInt, patInt, payload]
  case signed =>
    have hv : seqInt .signed bs =
        seqValue bs - if decide (seqInt .signed bs < 0) then 2 ^ (7 * bs.length) else 0 := by
      rw [← finalSign_eq]
      rfl
    have hneg : patInt .signed (payload 0x7F#8) = -1 := by decide
    have hpos : patInt .signed (payload 0x00#8) = 0 := by decide
    rw [fillByte]
    split
    · next hlt =>
      rw [decide_eq_true hlt, if_pos rfl] at hv
      rw [hneg, hv, mul_neg_one, sub_eq_add_neg]
    · next hge =>
      rw [decide_eq_false hge, if_neg Bool.false_ne_true] at hv
      rw [hpos, hv, mul_zero, sub_zero, add_zero]

/-- A sequence with a redundant group after it: again a sequence, with the same value (R106). -/
theorem padded_sequence {g : Signedness} {bs : List Byte} (h : isSequence bs = true) :
    isSequence (bs.dropLast ++ [bs.getLastD 0 ||| 0x80, fillByte (seqInt g bs)]) = true ∧
    seqInt g (bs.dropLast ++ [bs.getLastD 0 ||| 0x80, fillByte (seqInt g bs)]) = seqInt g bs := by
  have hfill := seqInt_eq_fill g bs
  obtain ⟨cs, b, hbs, hc, -⟩ := isSequence_split h
  have hpad : bs.dropLast ++ [bs.getLastD 0 ||| 0x80, fillByte (seqInt g bs)] =
      (cs ++ [b ||| 0x80]) ++ [fillByte (seqInt g bs)] := by
    simp [hbs]
  have hval : seqValue (cs ++ [b ||| 0x80]) = seqValue bs := by
    rw [hbs, seqValue_append, seqValue_append, payload_setFlag]
  have hlen : (cs ++ [b ||| 0x80]).length = bs.length := by simp [hbs]
  rw [hpad]
  refine ⟨isSequence_append (by simpa using ⟨List.all_eq_true.1 hc, continues_setFlag b⟩) (continues_fillByte _), ?_⟩
  rw [seqInt_append, hval, hlen, ← hfill]

end Sys2Proof.Machine
end

section
/-! PROOF. The unsigned check after the loop beside the check on each group (R104). -/

namespace Sys2Proof.Machine

open Sys2Proof.Claims

/-! ### Turns that change nothing -/

theorem codecTurns_of_fixed {s : State} (h : codecTurn s = s) (n : Nat) : codecTurns n s = s := by
  induction n with
  | zero => rfl
  | succ n ih => rw [codecTurns, h, ih]

theorem postLoopTurns_of_fixed {s : State} (h : postLoopTurn s = s) (n : Nat) : postLoopTurns n s = s := by
  induction n with
  | zero => rfl
  | succ n ih => rw [postLoopTurns, h, ih]

theorem codecTurns_not_busy {s : State} (h : s.status.state ≠ .busy) (n : Nat) : codecTurns n s = s :=
  codecTurns_of_fixed (codecTurn_not_busy h) n

theorem postLoopTurns_not_busy {s : State} (h : s.status.state ≠ .busy) (n : Nat) : postLoopTurns n s = s :=
  postLoopTurns_of_fixed (if_pos h) n

/-! ### The turns of a running command -/

section
variable {s : State} {b : Byte} {rest : List SourceAnswer}

theorem codecTurn_dec {t : State} (hr : Running .dec s) (h : decStep s = some t) : codecTurn s = t := by
  rw [codecTurn, codecStep_dec hr.1 hr.2, h, Option.getD_some]

theorem postLoopTurn_guard (hr : Running .dec s) (h : widthBits s.wid < s.shift.toNat) :
    postLoopTurn s = raiseOverflow s := by
  simp [postLoopTurn, hr.1, h]

theorem postLoopTurn_silent (hr : Running .dec s) (h : s.shift.toNat ≤ widthBits s.wid) (ha : s.sourceAnswers = []) :
    postLoopTurn s = s := by
  simp [postLoopTurn, hr.1, not_lt.2 h, ha]

theorem postLoopTurn_err (hr : Running .dec s) (h : s.shift.toNat ≤ widthBits s.wid)
    (ha : s.sourceAnswers = .err :: rest) : postLoopTurn s = raiseIoError { s with sourceAnswers := rest } := by
  simp [postLoopTurn, hr.1, not_lt.2 h, ha]

theorem postLoopTurn_byte (hr : Running .dec s) (h : s.shift.toNat ≤ widthBits s.wid)
    (ha : s.sourceAnswers = .byte b :: rest) : postLoopTurn s = postLoopTake b { s with sourceAnswers := rest } := by
  simp [postLoopTurn, hr.1, not_lt.2 h, ha]

theorem postLoopTake_continues (hc : continues b = true) :
    postLoopTake b s = mergeGroup (payload b) (countByte b s) := by
  simp [postLoopTake, hc]

/-- On a final byte the check after the loop is the check on the group (R99, R104). -/
theorem postLoopTake_final (h : s.shift.toNat ≤ widthBits s.wid) (hc : continues b = false) :
    postLoopTake b s =
      if exceedsUnsigned (widthBits s.wid) s.shift.toNat (payload b) = true then
        raiseOverflow (mergeGroup (payload b) (countByte b s))
      else finishDec (mergeGroup (payload b) (countByte b s)).acc (mergeGroup (payload b) (countByte b s)) := by
  have hsh : (mergeGroup (payload b) (countByte b s)).shift.toNat = s.shift.toNat + 7 := shift_succ h
  simp only [postLoopTake, hc, hsh, exceedsUnsigned_iff_excess h, mergeGroup_wid, countByte_wid,
    Nat.add_sub_cancel, Bool.false_eq_true, if_false]
  rw [work_mergeGroup]
  rfl

/-! ### The two decoders -/

theorem agree_of_ended {u v : State} (hc : codecTurn s = u) (hp : postLoopTurn s = v) (hu : u.status.state ≠ .busy)
    (h : SameButHidden u v) (n : Nat) : SameButHidden (codecTurns (n + 1) s) (postLoopTurns (n + 1) s) := by
  have hv : v.status.state ≠ .busy := by rw [h]; exact hu
  rwa [codecTurns, postLoopTurns, hc, hp, codecTurns_not_busy hu, postLoopTurns_not_busy hv]

/-- A byte past the width ends one decoder at once, the other at that byte or, if it continues, at the next guard. -/
theorem agree_of_exceeds (hr : Running .dec s) (hu : s.sgn = .unsigned) (h : s.shift.toNat ≤ widthBits s.wid)
    (ha : s.sourceAnswers = .byte b :: rest)
    (hx : exceedsUnsigned (widthBits s.wid) s.shift.toNat (payload b) = true) (n : Nat) :
    SameButHidden (codecTurns (n + 2) s) (postLoopTurns (n + 2) s) := by
  have hturn := codecTurn_dec hr (decStep_byte h ha)
  have hpost := postLoopTurn_byte hr h ha
  rw [takeByte_exceeds (s := { s with sourceAnswers := rest }) hu hx] at hturn
  cases hc : continues b
  · rw [postLoopTake_final (s := { s with sourceAnswers := rest }) h hc, if_pos hx] at hpost
    exact agree_of_ended hturn hpost (by simp) rfl (n + 1)
  · rw [postLoopTake_continues hc] at hpost
    have hguard : widthBits s.wid < (s.shift + 7).toNat := by
      rw [shift_succ h]
      exact ((exceedsUnsigned_iff_excess h _).1 hx).1
    have hlast := postLoopTurn_guard
      (s := mergeGroup (payload b) (countByte b { s with sourceAnswers := rest })) hr hguard
    rw [codecTurns, postLoopTurns, postLoopTurns, hturn, hpost, hlast, codecTurns_not_busy (by simp),
      postLoopTurns_not_busy (by simp)]
    rfl

/-- From any COUNT on, the turns left to MAXG(W) + 1 are enough for both decoders to end or to wait for the source. -/
theorem decoders_agree {n : Nat} (hi : Inv s) (hr : Running .dec s) (hu : s.sgn = .unsigned)
    (hn : maxGroups s.wid + 1 ≤ n + s.count.toNat) : SameButHidden (codecTurns n s) (postLoopTurns n s) := by
  induction n generalizing s with
  | zero =>
    obtain ⟨-, ⟨hcount, -⟩, -⟩ := hi
    omega
  | succ n ih =>
    have ⟨_, _, _, _, hdec, _⟩ := hi
    obtain ⟨hsh, -⟩ := hdec hr.1 hr.2
    rcases Nat.lt_or_ge (widthBits s.wid) s.shift.toNat with hg | hg
    · exact agree_of_ended (codecTurn_dec hr (decStep_guard hg)) (postLoopTurn_guard hr hg) (by simp) rfl n
    have hlt := count_lt_of_readable hsh hg
    match ha : s.sourceAnswers with
    | [] =>
      have hwait : codecTurn s = s := by rw [codecTurn, codecStep_dec hr.1 hr.2, decStep_none hg ha, Option.getD_none]
      rw [codecTurns_of_fixed hwait, postLoopTurns_of_fixed (postLoopTurn_silent hr hg ha)]
    | .err :: rest =>
      exact agree_of_ended (codecTurn_dec hr (decStep_err hg ha)) (postLoopTurn_err hr hg ha) (by simp) rfl n
    | .byte b :: rest =>
      have hturn := codecTurn_dec hr (decStep_byte hg ha)
      have hpost := postLoopTurn_byte hr hg ha
      cases hx : exceedsUnsigned (widthBits s.wid) s.shift.toNat (payload b)
      case true =>
        obtain ⟨k, rfl⟩ : ∃ k, n = k + 1 := Nat.exists_eq_add_of_le' (by omega)
        exact agree_of_exceeds hr hu hg ha hx k
      cases hc : continues b
      case false =>
        rw [takeByte_final_unsigned (s := { s with sourceAnswers := rest }) hu hx hc] at hturn
        rw [postLoopTake_final (s := { s with sourceAnswers := rest }) hg hc, if_neg (by simp [hx])] at hpost
        exact agree_of_ended hturn hpost (by simp) rfl n
      case true =>
        have hmerge := takeByte_continues (s := { s with sourceAnswers := rest }) (fun _ => hx) hc
        have hinv := takeByte_inv (s := { s with sourceAnswers := rest }) b hi hr hg
        rw [hmerge] at hturn hinv
        rw [postLoopTake_continues hc] at hpost
        rw [codecTurns, postLoopTurns, hturn, hpost]
        refine ih hinv hr hu ?_
        rw [mergeGroup_count, countByte_count, count_succ hlt]
        show maxGroups s.wid + 1 ≤ _
        omega

end

end Sys2Proof.Machine
end

section
/-! PROOF. The statements on redundant groups and on the two unsigned checks. -/

namespace Sys2Proof.Proofs

open Sys2Proof.Machine Sys2Proof.Claims

/-- Settles O31: the sign above a sequence is what a redundant group holds, and the padded sequence is decoded as any. -/
theorem paddingKeepsTheValue : Obligations.PaddingKeepsTheValue := by
  intro g bs hs fill cs hfill hcs
  subst hfill hcs
  obtain ⟨hseq, hval⟩ := padded_sequence (g := g) hs
  refine ⟨⟨hseq, hval⟩, fun row hrow hg s rest hb hsch hx hlen ha => ?_⟩
  subst hg
  have h := decode_sequence hrow hb hsch hseq hlen (hval.symm ▸ hx) ha
  rw [hval] at h
  exact h

/-- Settles O32, by the turns left, one byte at a time. -/
theorem unsignedCheckPoliciesAgree : Obligations.UnsignedCheckPoliciesAgree :=
  fun _ _ hi hr hu hn => decoders_agree hi hr hu (Nat.le_add_right_of_le hn)

end Sys2Proof.Proofs
end

section
/-! PROOF. A step of one block of a system, and host accesses that always answer a next state. -/

namespace Sys2Proof.Machine

/-! ### Host accesses -/

/-- A request answers a next state for any word: a legal one runs its command, any other completes or is dropped. -/
theorem commandRequest_answers_next (c : Byte) (s : State) : ∃ t, commandRequest c s = .next t := by
  match hd : decode c with
  | .ok i => exact commandRequest_ok hd s ▸ exec_next i s
  | .error _ => exact ⟨_, commandRequest_error hd s⟩

theorem step_write_answers_next {s : State} {r : RegNum} {v : Value} {rest : List Turn}
    (h : s.schedule = .host (.write r v) :: rest) : ∃ t, step s = .next t := by
  by_cases hr : r = 0
  · subst hr
    exact step_request h ▸ commandRequest_answers_next _ _
  · exact ⟨_, step_write h hr⟩

theorem step_reset {s : State} {rest : List Turn} (h : s.schedule = .host .reset :: rest) :
    step s = .next (resetBlock { s with schedule := rest }) := by
  rw [step_cons h]; rfl

/-! ### A system of blocks (R135) -/

section
variable {sys : System} {k : Nat} {s : State} (hk : sys.blocks[k]? = some s)
include hk

theorem stepAt_of_next {t : State} (h : step s = .next t) :
    sys.stepAt k = .next { blocks := sys.blocks.set k t } := by
  simp only [System.stepAt, hk, h]

theorem stepAt_of_refused {r : Refusal} (h : step s = .refused r) : sys.stepAt k = .refused r := by
  simp only [System.stepAt, hk, h]

end

end Sys2Proof.Machine
end

section
/-! PROOF. The statements on host accesses, instances and the time between commands. -/

namespace Sys2Proof.Proofs

open Sys2Proof.Machine Sys2Proof.Claims

/-- Settles O11: an acceptance has a next state in each of its cases, and no host access or reset has a refusal. -/
theorem hostAccessesAreAlwaysPermitted : Obligations.HostAccessesAreAlwaysPermitted :=
  ⟨exec_next, fun _ _ =>
    ⟨fun _ h => ⟨_, step_read h⟩, fun _ _ h => step_write_answers_next h, fun h => ⟨_, step_wait h⟩,
      fun h => ⟨_, step_reset h⟩⟩⟩

/-- Settles O46, by the answer of the block's own step: a next state or a refusal, for no step faults. -/
theorem instancesShareNothing : Obligations.InstancesShareNothing := by
  intro sys k s hk
  match hs : step s with
  | .next t =>
    rw [stepAt_of_next hk hs]
    obtain ⟨hlt, -⟩ := List.getElem?_eq_some_iff.1 hk
    refine ⟨?_, fun _ _ => ⟨_, rfl⟩, by simp, by simp⟩
    rintro _ ⟨⟩
    exact ⟨List.length_set, fun _ hj => List.getElem?_set_ne hj.symm, t, rfl, List.getElem?_set_self hlt⟩
  | .fault f => exact nomatch f
  | .refused r =>
    rw [stepAt_of_refused hk hs]
    simp

/-- Settles O42: the codec steps only while BUSY, and with no turn left a step is the codec's turn. -/
theorem nothingMovesBetweenCommands : Obligations.NothingMovesBetweenCommands :=
  fun _ hb => ⟨codecStep_not_busy hb, steps_at_rest hb⟩

end Sys2Proof.Proofs
end

section
/-! PROOF. How long a running command takes (R152), and what a silent stream does to it (R150). -/

namespace Sys2Proof.Machine

open Sys2Proof.Claims

/-! ### Answers to come -/

/-- The number of answers to come on the stream of the running command. -/
def State.answersLeft (s : State) : Nat :=
  match s.opk with
  | .enc => s.sinkAnswers.length
  | .dec => s.sourceAnswers.length

theorem answersLeft_enc {s : State} (h : s.opk = .enc) : s.answersLeft = s.sinkAnswers.length := by
  rw [State.answersLeft, h]

theorem answersLeft_dec {s : State} (h : s.opk = .dec) : s.answersLeft = s.sourceAnswers.length := by
  rw [State.answersLeft, h]

/-! ### A codec step is enabled, and takes the command one group on -/

theorem encStep_of_answer {s : State} (h : s.sinkAnswers ≠ []) : ∃ t, encStep s = some t := by
  match hs : s.sinkAnswers with
  | [] => exact absurd hs h
  | .err :: rest => exact ⟨_, encStep_err hs⟩
  | .ack :: rest =>
    cases hf : encIsFinal s
    · exact ⟨_, encStep_ack_more hs hf⟩
    · exact ⟨_, encStep_ack_final hs hf⟩

theorem decStep_of_answer {s : State} (h : s.shift.toNat ≤ widthBits s.wid → s.sourceAnswers ≠ []) :
    ∃ t, decStep s = some t := by
  rcases Nat.lt_or_ge (widthBits s.wid) s.shift.toNat with hg | hg
  · exact ⟨_, decStep_guard hg⟩
  · match hs : s.sourceAnswers with
    | [] => exact absurd hs (h hg)
    | .err :: rest => exact ⟨_, decStep_err hg hs⟩
    | .byte b :: rest => exact ⟨_, decStep_byte hg hs⟩

/-- With an answer to come for each group below MAXG(W), a running command has a codec step: at MAXG(W) groups an ENC
command is over, and the guard of a DEC command fires (R34, R96). -/
theorem codecStep_enabled {s : State} (hi : Inv s) (hb : s.status.state = .busy)
    (ha : maxGroups s.wid ≤ s.count.toNat + s.answersLeft) : ∃ t, codecStep s = some t := by
  obtain ⟨-, -, -, henc, hdec, -⟩ := hi
  match ho : s.opk with
  | .enc =>
    obtain ⟨-, hc, -⟩ := henc hb ho
    rw [answersLeft_enc ho] at ha
    rw [codecStep_enc hb ho]
    exact encStep_of_answer (List.ne_nil_of_length_pos (by omega))
  | .dec =>
    obtain ⟨hsh, -⟩ := hdec hb ho
    rw [answersLeft_dec ho] at ha
    rw [codecStep_dec hb ho]
    refine decStep_of_answer fun hg => List.ne_nil_of_length_pos ?_
    have hc := count_lt_of_readable hsh hg
    omega

/-- A codec step that does not end the command has transferred one group and taken one answer (R76, R95). -/
theorem codecStep_progress {s t : State} (hi : Inv s) (h : codecStep s = some t) (hd : t.status.state ≠ .done) :
    t.status.state = .busy ∧ t.wid = s.wid ∧ t.schedule = s.schedule ∧
      t.count.toNat = s.count.toNat + 1 ∧ s.answersLeft = t.answersLeft + 1 := by
  obtain ⟨-, -, -, henc, hdec, -⟩ := hi
  obtain ⟨hb, ⟨ho, he⟩ | ⟨ho, hd'⟩⟩ := codecStep_cases h
  · obtain ⟨-, hc, -⟩ := henc hb ho
    rcases encStep_cases he with ⟨rest, -, rfl⟩ | ⟨rest, -, -, rfl⟩ | ⟨rest, hs, -, rfl⟩
    · exact absurd rfl hd
    · exact absurd rfl hd
    · refine ⟨hb, rfl, rfl, count_succ hc, ?_⟩
      simp [State.answersLeft, ho, hs]
  · obtain ⟨hsh, -⟩ := hdec hb ho
    rcases decStep_cases hd' with ⟨-, rfl⟩ | ⟨-, rest, -, rfl⟩ | ⟨hg, b, rest, hs, rfl⟩
    · exact absurd rfl hd
    · exact absurd rfl hd
    · rw [takeByte_of_running hd]
      refine ⟨hb, rfl, rfl, count_succ (count_lt_of_readable hsh hg), ?_⟩
      simp [State.answersLeft, ho, hs]

/-- A running command whose k-th further group would be past MAXG(W) ends within k codec steps: COUNT rises at each step
that does not end it, and never passes MAXG(W) (R27). -/
theorem steps_end_within {s : State} {k : Nat} (hi : Inv s) (hb : s.status.state = .busy) (hs : s.schedule = [])
    (hk : maxGroups s.wid < s.count.toNat + k) (ha : maxGroups s.wid ≤ s.count.toNat + s.answersLeft) :
    ∃ n t, n ≤ k ∧ steps n s = .next t ∧ t.status.state = .done := by
  induction k generalizing s with
  | zero =>
    obtain ⟨-, ⟨hle, -⟩, -⟩ := hi
    exact absurd hle (Nat.not_le_of_lt hk)
  | succ k ih =>
    obtain ⟨t, ht⟩ := codecStep_enabled hi hb ha
    have hstep := step_codec hs ht
    by_cases hd : t.status.state = .done
    · exact ⟨1, t, Nat.le_add_left _ _, steps_succ_of_next 0 hstep, hd⟩
    · obtain ⟨hbt, hw, hst, hc, hleft⟩ := codecStep_progress hi ht hd
      obtain ⟨n, u, hn, hu, hdone⟩ := ih (Proofs.everyStepKeepsTheInvariant s t hi hstep) hbt (hst.trans hs)
        (by rw [hw, hc]; omega) (by rw [hw, hc]; omega)
      exact ⟨n + 1, u, Nat.succ_le_succ hn, (steps_succ_of_next n hstep).trans hu, hdone⟩

/-! ### A stream that never answers -/

/-- The stream of the running command has no answer to come, and no length guard ends the command without one (R150). -/
abbrev SilentStream (s : State) : Prop :=
  s.opk = .enc ∧ s.sinkAnswers = [] ∨
  s.opk = .dec ∧ s.sourceAnswers = [] ∧ s.shift.toNat ≤ widthBits s.wid

theorem codecStep_of_silent {s : State} (hb : s.status.state = .busy) (h : SilentStream s) : codecStep s = none := by
  rcases h with ⟨ho, ha⟩ | ⟨ho, ha, hg⟩
  · rw [codecStep_enc hb ho, encStep_none ha]
  · rw [codecStep_dec hb ho, decStep_none hg ha]

theorem codecTurn_of_silent {s : State} (hb : s.status.state = .busy) (h : SilentStream s) : codecTurn s = s := by
  rw [codecTurn, codecStep_of_silent hb h, Option.getD_none]

theorem steps_of_fixed {s : State} (h : step s = .next s) (n : Nat) : steps n s = .next s := by
  induction n with
  | zero => rfl
  | succ n ih => rw [steps_succ_of_next n h, ih]

/-- A WAIT on a command whose stream is silent: its next read of STATUS is due, or a codec turn and then that read. -/
structure Polling (s : State) : Prop where
  busy : s.status.state = .busy
  silent : SilentStream s
  schedule : s.schedule = [.host .wait] ∨ s.schedule = [.codec, .host .wait]

theorem Polling.mem {s : State} (h : Polling s) : .host .wait ∈ s.schedule := by
  rcases h.schedule with hs | hs <;> simp [hs]

/-- A read of STATUS sees BUSY and polls again, and the codec turn between two reads changes nothing (R65, R150). -/
theorem Polling.next {s : State} (h : Polling s) : ∃ t, step s = .next t ∧ Polling t := by
  obtain ⟨hb, hq, hs | hs⟩ := h
  · refine ⟨_, step_wait hs, ?_⟩
    rw [hostWait_of_busy (s := { s with schedule := [] }) hb]
    exact ⟨hb, hq, .inr rfl⟩
  · refine ⟨_, step_of_codecsTurn (.inl hs), ?_⟩
    rw [codecTurn_of_silent (s := { s with schedule := [.host .wait] }) hb hq]
    exact ⟨hb, hq, .inl rfl⟩

theorem Polling.steps {s : State} (h : Polling s) (n : Nat) : ∃ t, steps n s = .next t ∧ Polling t := by
  induction n generalizing s with
  | zero => exact ⟨s, rfl, h⟩
  | succ n ih =>
    obtain ⟨t, ht, hpt⟩ := h.next
    rw [steps_succ_of_next n ht]
    exact ih hpt

end Sys2Proof.Machine
end

section
/-! PROOF. The statements on progress and on a silent stream. -/

namespace Sys2Proof.Proofs

open Sys2Proof.Machine Sys2Proof.Claims

/-- Settles O44: however many groups have gone, MAXG(W) + 1 more would be past MAXG(W). -/
theorem commandsEndWithinMaxGroups : Obligations.CommandsEndWithinMaxGroups := by
  intro s hi hb hs henc hdec
  have ha : maxGroups s.wid ≤ s.answersLeft := by
    match ho : s.opk with
    | .enc => rw [answersLeft_enc ho]; exact henc ho
    | .dec => rw [answersLeft_dec ho]; exact hdec ho
  exact steps_end_within hi hb hs (by omega) (ha.trans (Nat.le_add_left _ _))

/-- Settles O43: the codec's turn changes nothing, so the state stands still or WAIT polls it again. -/
theorem silentStreamHangs : Obligations.SilentStreamHangs := by
  refine fun s hb hq => ⟨codecStep_of_silent hb hq, fun hs => steps_of_fixed ?_, fun hs n => ?_⟩
  · rw [step_nil hs, codecTurn_of_silent hb hq]
  · obtain ⟨t, ht, hp⟩ := Polling.steps ⟨hb, hq, .inl hs⟩ n
    exact ⟨t, ht, hp.busy, hp.mem⟩

end Sys2Proof.Proofs
end

section
/-! PROOF. A running command beside the host's requests, reset, and other agents on its stream (R138, R145, R146). -/

namespace Sys2Proof.Machine

open Sys2Proof.Claims

/-! ### Requests while BUSY -/

theorem exec_busy (i : Instr) {s : State} (hb : s.status.state = .busy) : exec i s = .next s := by
  obtain ⟨u, g, hx⟩ := exec_is_acceptance i
  rw [hx, acceptCommand_busy u g _ hb]

/-- A running command drops a request with any word. -/
theorem commandRequest_dropped (c : Byte) {s : State} (hb : s.status.state = .busy) :
    commandRequest c s = .next s := by
  obtain ⟨t, ht⟩ := commandRequest_answers_next c s
  rw [ht, commandRequest_busy hb ht]

/-! ### OPERAND is no part of a running command -/

theorem encStep_writeOperand (v : Value) (s : State) :
    encStep (writeOperand v s) = (encStep s).map (writeOperand v) := by
  match hs : s.sinkAnswers with
  | [] =>
    rw [encStep_none hs, encStep_none (s := writeOperand v s) hs]
    rfl
  | .err :: rest =>
    rw [encStep_err hs, encStep_err (s := writeOperand v s) hs]
    rfl
  | .ack :: rest =>
    cases hf : encIsFinal s
    · rw [encStep_ack_more hs hf, encStep_ack_more (s := writeOperand v s) hs hf]
      rfl
    · rw [encStep_ack_final hs hf, encStep_ack_final (s := writeOperand v s) hs hf]
      rfl

theorem finalize_writeOperand (p : BitVec 7) (v : Value) (s : State) :
    finalize p (writeOperand v s) = writeOperand v (finalize p s) := by
  rw [finalize, finalize, apply_ite (writeOperand v)]
  rfl

theorem takeByte_writeOperand (b : Byte) (v : Value) (s : State) :
    takeByte b (writeOperand v s) = writeOperand v (takeByte b s) := by
  rcases takeByte_cases b s with ⟨hu, hx, ht⟩ | ⟨hu, hc, ht⟩ | ⟨hu, hc, ht⟩ <;> rw [ht]
  · exact takeByte_exceeds (s := writeOperand v s) hu hx
  · exact takeByte_continues (s := writeOperand v s) hu hc
  · exact (takeByte_final (s := writeOperand v s) hu hc).trans
      (finalize_writeOperand _ v (mergeGroup (payload b) (countByte b s)))

theorem decStep_writeOperand (v : Value) (s : State) :
    decStep (writeOperand v s) = (decStep s).map (writeOperand v) := by
  rcases Nat.lt_or_ge (widthBits s.wid) s.shift.toNat with hg | hg
  · rw [decStep_guard hg, decStep_guard (s := writeOperand v s) hg]
    rfl
  · match ha : s.sourceAnswers with
    | [] =>
      rw [decStep_none hg ha, decStep_none (s := writeOperand v s) hg ha]
      rfl
    | .err :: rest =>
      rw [decStep_err hg ha, decStep_err (s := writeOperand v s) hg ha]
      rfl
    | .byte b :: rest =>
      rw [decStep_byte hg ha, decStep_byte (s := writeOperand v s) hg ha, Option.map_some,
        ← takeByte_writeOperand]
      rfl

/-- A running command reads no OPERAND after its acceptance (R20, R40, R146). -/
theorem codecTurn_writeOperand (v : Value) {s : State} (hb : s.status.state = .busy) :
    codecTurn (writeOperand v s) = writeOperand v (codecTurn s) := by
  have hstep : codecStep (writeOperand v s) = (codecStep s).map (writeOperand v) := by
    match ho : s.opk with
    | .enc =>
      rw [codecStep_enc hb ho, codecStep_enc (s := writeOperand v s) hb ho, encStep_writeOperand]
    | .dec =>
      rw [codecStep_dec hb ho, codecStep_dec (s := writeOperand v s) hb ho, decStep_writeOperand]
  rw [codecTurn, codecTurn, hstep, Option.getD_map]

/-! ### Reset -/

theorem uses_iff_running {s : State} {u : Unit2} : s.uses u = true ↔ Running u s := uses_iff s u

theorem codecStep_resetBlock (s : State) : codecStep (resetBlock s) = none :=
  codecStep_not_busy nofun

/-- A reset that cuts no ENC command short leaves the sink and draws nothing. -/
theorem resetBlock_of_not_running {s : State} (h : ¬ Running .enc s) : resetBlock s = resetRegisters s := by
  rw [← uses_iff_running] at h
  simp [resetBlock, disturbSink, h]

/-- What the sink holds after a reset that cuts an ENC command short (R57, R147). -/
theorem resetBlock_sink_of_running {s : State} (h : Running .enc s) :
    (resetBlock s).sink = Config.sinkContents s.draws :=
  if_pos ((uses_iff s .enc).2 h)

/-! ### Other agents on the streams -/

/-- A move that is refused while the unit u has the stream, by whether a command of u is running (R145). -/
theorem answer_by_running {u : Unit2} {r : Refusal} {s t : State} {a : Answer}
    (h : a = if s.uses u then .refused r else .next t) :
    (Running u s → a = .refused r) ∧ (¬ Running u s → a = .next t) := by
  rw [h, ← uses_iff_running]
  exact ⟨fun hu => if_pos hu, fun hu => if_neg hu⟩

end Sys2Proof.Machine
end

section
/-! PROOF. The statements on requests while BUSY, reset and shared streams. -/

namespace Sys2Proof.Proofs

open Sys2Proof.Machine Sys2Proof.Claims

/-- Settles O7: the acceptance step drops every request while BUSY, and the codec's step does not read OPERAND. -/
theorem requestsWhileBusyAreDropped : Obligations.RequestsWhileBusyAreDropped := by
  refine fun s hb => ⟨?_, fun i => exec_busy i hb, fun v rest hs => ?_, fun v => codecTurn_writeOperand v hb⟩
  · rintro c rest ⟨v, -, hs⟩
    rw [step_request hs]
    exact commandRequest_dropped _ hb
  · rw [step_write hs (by decide)]
    rfl

/-- Settles O41: a reset writes the block's registers and no stream, and the sink it leaves after a cut-short ENC
command is named by the draws alone. -/
theorem resetInAnyState : Obligations.ResetInAnyState := by
  refine fun s rest hs => ⟨⟨_, step_reset hs, rfl, rfl, rfl, rfl, rfl, codecStep_resetBlock _, rfl, rfl, rfl, rfl,
    rfl, rfl, rfl, fun hr => ?_⟩, fun hr => ⟨Config.sinkContents s.draws, fun kept => ⟨_, step_reset hs, ?_⟩⟩⟩
  · rw [resetBlock_of_not_running (s := { s with schedule := rest }) hr]
    exact ⟨rfl, rfl⟩
  · exact resetBlock_sink_of_running (s := { s with sink := kept, schedule := rest }) hr

/-- Settles O45: each of the four moves looks at whether a running command uses the stream. -/
theorem sharedStreamsAreRefused : Obligations.SharedStreamsAreRefused :=
  fun _ _ => ⟨fun _ h => answer_by_running (step_cons h), fun h => answer_by_running (step_cons h),
    fun _ _ h => answer_by_running (step_cons h), fun _ h => answer_by_running (step_cons h)⟩

end Sys2Proof.Proofs
end
